-- ==== Sys2Proof/Word.lean ====
section
/-! DEFINITION. The block's word and byte, and the one division the spec's arithmetic uses beside `/` (00_scope.md R9, R12). -/

namespace Sys2Proof

/-- A 32-bit word of the host window or of the output buffer (R9, R22, R72). -/
abbrev Word := BitVec 32

/-- A byte of a word, a colour byte or a gamma entry. -/
abbrev Byte := BitVec 8

/-- `ceil_div(a, b)` of R12, for `b > 0`. -/
def ceilDiv (a b : Nat) : Nat := (a + b - 1) / b

end Sys2Proof
end

