-- ==== Sys2Proof/Machine/Bytes.lean ====
section
/-! DEFINITION. Byte order: the byte at the lowest address is bits 7:0 (20_memory.md R73). -/

namespace Sys2Proof.Machine

/-- Byte `b` of a word, bits `[8b+7 : 8b]`: the byte at the word's address plus `b`. -/
def wordByte (v : Word) (b : Nat) : Byte := v.extractLsb' (8 * b) 8

/-- The word whose bytes, from the lowest address up, are `b0` to `b3`. -/
def wordOfBytes (b0 b1 b2 b3 : Byte) : Word := b3 ++ (b2 ++ (b1 ++ b0))

/-- The four bytes of a word as they lie in memory, lowest address first. -/
def bytesOfWord (v : Word) : List Byte := [wordByte v 0, wordByte v 1, wordByte v 2, wordByte v 3]

end Sys2Proof.Machine
end

