-- ==== Sys2Proof/Machine/Cells.lean ====
section
/-! DEFINITION. A sparse store: a list of (index, entry) pairs with indices strictly rising. The output bus space and the
block's RAMs are such lists. -/

namespace Sys2Proof.Machine.Cells

/-- The entry listed at an index, if any. -/
def get {α : Type} : List (Nat × α) → Nat → Option α
  | [], _ => none
  | (k, v) :: rest, a => if k = a then some v else get rest a

/-- The list with the entry at an index set. -/
def set {α : Type} : List (Nat × α) → Nat → α → List (Nat × α)
  | [], a, v => [(a, v)]
  | (k, w) :: rest, a, v =>
    if a < k then (a, v) :: (k, w) :: rest
    else if a = k then (a, v) :: rest
    else (k, w) :: set rest a v

/-- The canonical form: indices strictly rising, all below a bound. -/
def wf {α : Type} (bound : Nat) (m : List (Nat × α)) : Bool :=
  decide ((m.map Prod.fst).Pairwise (· < ·)) && m.all (fun e => decide (e.1 < bound))

end Sys2Proof.Machine.Cells
end

