-- ==== Sys2Proof/Machine/Types.lean ====
section
/-! DEFINITION. The names the spec fixes (lanes, modes, operation states, error codes, registers) and the data that says what
an agent outside the block does next (host statements, moves). -/

namespace Sys2Proof.Machine

/-- The block's two lanes (00_scope.md R4). -/
inductive LaneId
  | l0
  | l1
deriving DecidableEq, Repr, Inhabited

/-- `CTRL.MODE`: 0 is DUAL, 1 is SINGLE (10_state.md R30). -/
inductive Mode
  | dual
  | single
deriving DecidableEq, Repr

/-- The operation state `FSM` (10_state.md R53). -/
inductive Fsm
  | idle
  | pending
  | busy
deriving DecidableEq, Repr

/-- `CUR_OP`, the accepted command (10_state.md R54). -/
inductive CurOp
  | encode
  | blank
deriving DecidableEq, Repr, Inhabited

/-- The error codes of `STATUS.ERR` that are ever produced, in the order of their numbers 0 to 5 (60_exceptions.md R222).
Codes 6 to 15 are reserved and never raised, so they are no value of this type. -/
inductive Err
  | none
  | outOfMemory
  | illegalFreq
  | cmdBusy
  | badCmd
  | busFault
deriving DecidableEq, Repr

/-- The registers of 10_state.md section 3. -/
inductive Reg
  | ctrl
  | status
  | cmd
  | freq
  | resetUs
  | outBase
  | outCap
  | count (l : LaneId)
  | layout (l : LaneId)
  | ctl (l : LaneId)
  | clkDiv
  | resetBits
  | laneWords
  | bufWords
  | xferBytes
  | waitUs
  | waitRemain
  | armWaitUs
  | paramOscHz
  | paramPixCap
deriving DecidableEq, Repr

/-- What a window offset names (20_memory.md R86). -/
inductive Place
  | reg (r : Reg)
  | gamma (l : LaneId) (k : Nat)
  | pix (l : LaneId) (i : Nat)
  | unmapped
deriving DecidableEq, Repr

/-- The memory's answer to the write of one output word (20_memory.md R76). `noAnswer`: the write is issued and neither
acknowledged nor refused yet (43_commands.md R200, 93 entry 11). -/
inductive MemAnswer
  | ok
  | error
  | noAnswer
deriving DecidableEq, Repr, Inhabited

/-- One statement of the host's program (30_encoding.md R97), labels resolved to places in the program. `wr` and `rd` carry the
access width in bytes; a listing's `WR` and `RD` have width 4. -/
inductive Stmt
  | wr (off width : Nat) (value : Word)
  | rd (off width : Nat)
  | poll (off : Nat) (mask value : Word)
  | bne (off : Nat) (mask value : Word) (target : Nat)
  | delay (us : Nat)
deriving DecidableEq, Repr

/-- One atomic move of one agent (00_scope.md R3). -/
inductive Move
  /-- the host executes the next statement of its program -/
  | host
  /-- the encoder engine takes its next step; `answer` is the memory's answer if that step writes a word -/
  | engine (answer : MemAnswer)
  /-- `US_TICK` pulses (42_symbol_timer.md R181) -/
  | tick
  /-- the platform resets the block (70_reset_and_hazards.md R240) -/
  | reset
  /-- the DMA reader or the host reads the word at bus address `4·index` (20_memory.md R80) -/
  | observeWord (index : BitVec 30)
  /-- the host reads the byte at a bus address (20_memory.md R74) -/
  | observeByte (addr : Word)
  /-- another bus master writes a byte of the output bus space (20_memory.md R70; R248 asks the host not to) -/
  | outsideWrite (addr : Word) (value : Byte)
deriving DecidableEq, Repr, Inhabited

end Sys2Proof.Machine
end

