-- ==== Sys2Proof/Config.lean ====
section
/-! DEFINITION. What the platform fixes (the parameters `OSC_HZ` and `PIX_CAP`) and the free values: constants with no body,
so that nothing can be proved of what they are. -/

namespace Sys2Proof.Config

open Sys2Proof.Machine

/-- Any natural number; `oscHz` brings it into R10's range. -/
opaque oscHzRaw : Nat

/-- Any natural number; `pixCap` brings it into R10's range. -/
opaque pixCapRaw : Nat

/-- The parameter `OSC_HZ` of the machine that `State.reset` describes: any value with `2400000 <= OSC_HZ` and
`OSC_HZ div 1200000 <= 4095` (00_scope.md R10). -/
def oscHz : Nat := min 4915199999 (max 2400000 oscHzRaw)

/-- The parameter `PIX_CAP` of the machine that `State.reset` describes: any value from 1 to 16384 (00_scope.md R10). -/
def pixCap : Nat := min 16384 (max 1 pixCapRaw)

/-- The value pixel word `i` of lane `l` takes at the reset numbered `draw` (70_reset_and_hazards.md R241). -/
opaque pixDraw (draw : Nat) (l : LaneId) (i : Nat) : Word

/-- The value gamma entry `c` of lane `l` takes at the reset numbered `draw` (40_pixel_pipeline.md R123). -/
opaque gammaDraw (draw : Nat) (l : LaneId) (c : Nat) : Byte

/-- `CUR_OP` after the reset numbered `draw` (10_state.md R54, 93 entry 3). -/
opaque curOpDraw (draw : Nat) : CurOp

/-- What a byte of the output bus space that no write of the model reached holds (93 entry 13). -/
opaque busInit (addr : Nat) : Byte

/-- The moves of a free round before the engine's: any list of them (93 entries 18 and 19). -/
opaque movesBefore (ix : Nat) : List Move

/-- The memory's answer to the engine's move of a free round, if that move writes a word (93 entry 12). -/
opaque freeAnswer (ix : Nat) : MemAnswer

/-- The moves of a free round between the engine's and the tick: any list of them (93 entries 18 and 19). -/
opaque movesBetween (ix : Nat) : List Move

/-- A free bit: whether the word in flight is seen new (20_memory.md R80), whether it lands at a reset (R242). -/
opaque freeBool (ix : Nat) : Bool

/-- A free word: what a word whose write was refused holds (43_commands.md R199, 93 entry 13). -/
opaque freeWord (ix : Nat) : Word

/-- What a read of `PARAM_OSC_HZ` gives when `OSC_HZ` does not fit in 32 bits: the spec states no value. -/
opaque wideOscRead (oscHz : Nat) : Word

end Sys2Proof.Config
end

