-- ==== Sys2Proof/Syntax.lean ====
section
/-! DEFINITION. The commands, one constructor for each row of spec/opcode_table.json (30_encoding.md R91). -/

namespace Sys2Proof

/-- A command of the block. Commands carry no operands (30_encoding.md R92); the two reserved rows carry the opcode, which
`WellFormed` holds to the row's own range. -/
inductive Instr
  /-- OP 0x0 (43_commands.md R191) -/
  | nop
  /-- OP 0x1 (43_commands.md R192) -/
  | encode
  /-- OP 0x2 (43_commands.md R193) -/
  | blank
  /-- OP 0x3 (43_commands.md R194) -/
  | armed
  /-- OP 0x4 to 0x7, the table's first RESERVED row (43_commands.md R195) -/
  | reservedLow (op : BitVec 4)
  /-- OP 0x8 to 0xF, the table's second RESERVED row (43_commands.md R195) -/
  | reservedHigh (op : BitVec 4)
deriving DecidableEq, Repr

end Sys2Proof
end

