-- ==== Sys2Proof/Machine/State.lean ====
section
/-! DEFINITION. What the machine holds, why it can stop, and its state right after reset. -/

namespace Sys2Proof.Machine

/-- The open parameters (00_scope.md R10), held as data so that a model takes them as arguments. No step changes them. -/
structure Params where
  oscHz : Nat
  pixCap : Nat
deriving DecidableEq, Repr

/-- The fields of one lane's registers `Lx_COUNT`, `Lx_LAYOUT` and `Lx_CTL` (10_state.md R37, R38, R39). Reserved bits are
hardwired 0 and so are not held. -/
structure Lane where
  count : BitVec 16
  sh0 : BitVec 5
  sh1 : BitVec 5
  sh2 : BitVec 5
  sh3 : BitVec 5
  white : Bool
  bright : Byte
  gammaEn : Bool
  inv : Bool
  en : Bool
deriving DecidableEq, Repr

/-- The configuration registers, all of them locked while a command is in progress (10_state.md R24, R30, R33 to R39). -/
structure Cfg where
  mode : Mode
  freq : Word
  resetUs : BitVec 16
  /-- `OUT_BASE[31:2]`; bits 1:0 are hardwired 0 (R35) -/
  outBase : BitVec 30
  outCap : Word
  lane0 : Lane
  lane1 : Lane
deriving DecidableEq, Repr

/-- The output bus space: (bus byte address, byte) pairs, addresses strictly rising. An unlisted byte was written by nobody in
the model and has no value here (20_memory.md R70, 93 entry 13). -/
abbrev Memory := List Host.Cell

/-- A RAM of the block: (index, entry) pairs, indices strictly rising, of the entries the host has written since reset. An
unlisted entry holds its draw (70_reset_and_hazards.md R241). -/
abbrev Ram (w : Nat) := List (Nat × BitVec w)

/-- The host agent: its program, its place in it, the microseconds of a `DELAY` still to wait, and what its last read returned
(30_encoding.md R97). -/
structure HostAgent where
  program : List Stmt
  pc : Nat
  delay : Nat
  readData : Word
deriving DecidableEq, Repr

/-- The block, the output bus space it shares, and the agents outside it. -/
structure State where
  params : Params
  cfg : Cfg
  /-- `STATUS.ERR` (10_state.md R31) -/
  err : Err
  /-- `STATUS.DONE` -/
  done : Bool
  /-- `STATUS.WERR` -/
  werr : Bool
  /-- `STATUS.BUSERR` -/
  buserr : Bool
  /-- `WAIT_REMAIN` (R46) -/
  waitRemain : Word
  /-- `ARM_WAIT_US` (R47) -/
  armWaitUs : Word
  pix0 : Ram 32
  pix1 : Ram 32
  gamma0 : Ram 8
  gamma1 : Ram 8
  /-- which reset drew the contents of the RAM entries not written since -/
  draw : Nat
  fsm : Fsm
  curOp : CurOp
  cursor : Nat
  /-- the write of output word `cursor` has been issued and not answered (20_memory.md R80) -/
  inFlight : Bool
  mem : Memory
  host : HostAgent
  /-- what an outside observer last read from the output bus space (R80) -/
  seen : Word
  /-- the moves already fixed, the next first -/
  sched : List Move
  /-- how many free values have been used -/
  freeIx : Nat
deriving DecidableEq, Repr

/-- Why the machine stops with a fault: never. The block reports every error in `STATUS` and goes on
(60_exceptions.md R220), so there is no constructor. -/
inductive Fault
deriving DecidableEq, Repr

/-- Why the machine refuses an instruction. -/
inductive Refusal
  /-- raised by `exec` for an instruction that has no meaning yet (safe: nothing is claimed of it); no arm of `exec` raises it
  in this model -/
  | notModelled (mnemonic : String)
deriving DecidableEq, Repr

/-- A lane's registers after reset (10_state.md R37 to R39): `L_LAYOUT = 0x00000810`, `L_CTL = 0x000000FF`. -/
def Lane.reset : Lane :=
  { count := 0, sh0 := 16, sh1 := 8, sh2 := 0, sh3 := 0, white := false, bright := 255,
    gammaEn := false, inv := false, en := false }

/-- The configuration registers after reset (10_state.md section 3). -/
def Cfg.reset : Cfg :=
  { mode := .dual, freq := 0, resetUs := 300, outBase := 0, outCap := 0, lane0 := Lane.reset, lane1 := Lane.reset }

/-- The host agent with no program. -/
def HostAgent.idle : HostAgent := { program := [], pc := 0, delay := 0, readData := 0 }

/-- The machine right after reset (10_state.md R57, 70_reset_and_hazards.md R240). -/
def State.reset : State :=
  { params := { oscHz := Config.oscHz, pixCap := Config.pixCap }
    cfg := Cfg.reset
    err := .none
    done := false
    werr := false
    buserr := false
    waitRemain := 0
    armWaitUs := 0
    pix0 := []
    pix1 := []
    gamma0 := []
    gamma1 := []
    draw := 0
    fsm := .idle
    curOp := Config.curOpDraw 0
    cursor := 0
    inFlight := false
    mem := []
    host := HostAgent.idle
    seen := 0
    sched := []
    freeIx := 0 }

end Sys2Proof.Machine
end

