-- ==== Sys2Proof/Machine/Ops.lean ====
section
/-! DEFINITION. The named operations over the block's state: the lanes, the RAMs, the output bus space, raising and clearing an
error. Every read and write of a RAM or of the bus space goes through one of these. -/

namespace Sys2Proof.Machine

/-! ### Lanes and RAMs -/

/-- The number of a lane (00_scope.md R4). -/
def LaneId.idx : LaneId → Nat
  | .l0 => 0
  | .l1 => 1

/-- The registers of a lane (10_state.md section 3.7). -/
def Cfg.lane (c : Cfg) : LaneId → Lane
  | .l0 => c.lane0
  | .l1 => c.lane1

/-- The configuration with one lane's registers replaced. -/
def Cfg.setLane (c : Cfg) (l : LaneId) (x : Lane) : Cfg :=
  match l with
  | .l0 => { c with lane0 := x }
  | .l1 => { c with lane1 := x }

/-- The pixel RAM of a lane (10_state.md R51). -/
def State.pixRam (s : State) : LaneId → Ram 32
  | .l0 => s.pix0
  | .l1 => s.pix1

/-- The gamma RAM of a lane (10_state.md R52). -/
def State.gammaRam (s : State) : LaneId → Ram 8
  | .l0 => s.gamma0
  | .l1 => s.gamma1

/-- `PIX[l][i]`: the entry written since reset, or the value drawn at reset (70_reset_and_hazards.md R241). -/
def State.pix (s : State) (l : LaneId) (i : Nat) : Word :=
  (Cells.get (s.pixRam l) i).getD (Config.pixDraw s.draw l i)

/-- `GAMMA[l][c]`: the entry written since reset, or the value drawn at reset (40_pixel_pipeline.md R123). -/
def State.gamma (s : State) (l : LaneId) (c : Nat) : Byte :=
  (Cells.get (s.gammaRam l) c).getD (Config.gammaDraw s.draw l c)

/-- `PIX[l][i] <- v`. -/
def State.setPix (s : State) (l : LaneId) (i : Nat) (v : Word) : State :=
  match l with
  | .l0 => { s with pix0 := Cells.set s.pix0 i v }
  | .l1 => { s with pix1 := Cells.set s.pix1 i v }

/-- `GAMMA[l][c] <- v`. -/
def State.setGamma (s : State) (l : LaneId) (c : Nat) (v : Byte) : State :=
  match l with
  | .l0 => { s with gamma0 := Cells.set s.gamma0 c v }
  | .l1 => { s with gamma1 := Cells.set s.gamma1 c v }

/-- Word `k` of a gamma RAM: entry `4k + b` in bits `[8b+7 : 8b]` (10_state.md R52, 43_commands.md R206). -/
def State.gammaWord (s : State) (l : LaneId) (k : Nat) : Word :=
  wordOfBytes (s.gamma l (4 * k)) (s.gamma l (4 * k + 1)) (s.gamma l (4 * k + 2)) (s.gamma l (4 * k + 3))

/-- A write of word `k` of a gamma RAM (43_commands.md R206). -/
def State.setGammaWord (s : State) (l : LaneId) (k : Nat) (v : Word) : State :=
  (((s.setGamma l (4 * k) (wordByte v 0)).setGamma l (4 * k + 1) (wordByte v 1)).setGamma l (4 * k + 2)
    (wordByte v 2)).setGamma l (4 * k + 3) (wordByte v 3)

/-! ### The output bus space -/

/-- The canonical form of the output bus space: addresses strictly rising and below 2^32. -/
def Memory.wf (m : Memory) : Bool := Cells.wf (2 ^ 32) m

/-- The byte some write of the model put at a bus address, if any. -/
def Memory.read (m : Memory) (a : Nat) : Option Byte := Cells.get m a

/-- A byte write. -/
def Memory.write (m : Memory) (a : Nat) (v : Byte) : Memory := Cells.set m a v

/-- A word write: byte `b` of the word at `a + b` (20_memory.md R73, R76). -/
def Memory.writeWord (m : Memory) (a : Nat) (v : Word) : Memory :=
  (((m.write a (wordByte v 0)).write (a + 1) (wordByte v 1)).write (a + 2) (wordByte v 2)).write (a + 3) (wordByte v 3)

/-- The byte at a bus address as the memory holds it: a byte no write reached holds a free value (93 entry 13). -/
def State.busByte (s : State) (a : Nat) : Byte := (s.mem.read a).getD (Config.busInit a)

/-- The word at a bus address as the memory holds it. -/
def State.busWord (s : State) (a : Nat) : Word :=
  wordOfBytes (s.busByte a) (s.busByte (a + 1)) (s.busByte (a + 2)) (s.busByte (a + 3))

/-! ### Errors -/

/-- `raise Err(code)`: `STATUS.ERR <- code` and nothing else. This is the block's whole error mechanism: no state is saved, no
mode or mask changes, no control moves and there is no return (00_scope.md R14, 60_exceptions.md R220, R221). -/
def raiseErr (e : Err) (s : State) : State := { s with err := e }

/-- `ERR` returns to NONE, by a host write with `ERR_CLR = 1` (60_exceptions.md R231). -/
def clearErr (s : State) : State := { s with err := .none }

/-- An unsupported host access sets `STATUS.BUSERR` (43_commands.md R205). -/
def setBuserr (s : State) : State := { s with buserr := true }

/-- A host write dropped by the lock sets `STATUS.WERR` (43_commands.md R201). -/
def setWerr (s : State) : State := { s with werr := true }

/-! ### Free values -/

/-- The free bit that comes next, and the state after it is used. -/
def takeBool (s : State) : Bool × State := (Config.freeBool s.freeIx, { s with freeIx := s.freeIx + 1 })

/-- The free word that comes next, and the state after it is used. -/
def takeWord (s : State) : Word × State := (Config.freeWord s.freeIx, { s with freeIx := s.freeIx + 1 })

end Sys2Proof.Machine
end

