-- ==== Sys2Proof/Machine/Operands.lean ====
section
/-! DEFINITION. The configuration fields as operands (30_encoding.md R93): the constants of 00_scope.md, the lane functions
`NL`, `active`, `cpp` and the shift of a transmit slot, and how each configuration register's word is put together from its
fields and taken apart into them. -/

namespace Sys2Proof.Machine

/-- `FREQ_MIN` (00_scope.md R7). -/
def freqMin : Nat := 400000
/-- `FREQ_MAX` (R7). -/
def freqMax : Nat := 800000
/-- `RESET_US_MIN` (R8). -/
def resetUsMin : Nat := 300
/-- `COLOURS_MAX` (R5). -/
def coloursMax : Nat := 4
/-- `SLOTS_PER_BIT` (R6, R141). -/
def slotsPerBit : Nat := 3
/-- `SLOTS_PER_BYTE` (R141). -/
def slotsPerByte : Nat := 24
/-- `WORD_BITS` (R9). -/
def wordBits : Nat := 32

/-- R10's constraint on the parameters. -/
def Params.legal (p : Params) : Bool :=
  decide (2400000 ≤ p.oscHz) && decide (p.oscHz / 1200000 ≤ 4095) && decide (1 ≤ p.pixCap) && decide (p.pixCap ≤ 16384)

/-- `NL`, the number of lanes in the output (41_symbol_packing.md R150). -/
def Cfg.nl (c : Cfg) : Nat :=
  match c.mode with
  | .dual => 2
  | .single => 1

/-- `active(l)` (41_symbol_packing.md R151). -/
def Cfg.active (c : Cfg) (l : LaneId) : Bool :=
  decide (l.idx < c.nl) && (c.lane l).en && decide (0 < (c.lane l).count.toNat)

/-- `cpp(l)`, the colour bytes sent per LED (40_pixel_pipeline.md R121). -/
def Lane.cpp (x : Lane) : Nat := if x.white then 4 else 3

/-- `SHj`, the shift of transmit slot `j` (10_state.md R38). -/
def Lane.sh (x : Lane) (j : Nat) : BitVec 5 :=
  match j with
  | 0 => x.sh0
  | 1 => x.sh1
  | 2 => x.sh2
  | _ => x.sh3

/-- `OUT_BASE`, bits 1:0 hardwired 0 (10_state.md R35). -/
def Cfg.outBaseWord (c : Cfg) : Word := c.outBase ++ 0#2

/-- The bus address of output word `k`, `OUT_BASE + 4·k` (20_memory.md R77). -/
def Cfg.outAddr (c : Cfg) (k : Nat) : Word := c.outBaseWord + BitVec.ofNat 32 (4 * k)

/-! ### Register words -/

/-- A one-bit field as a bit vector. -/
def flagBit (b : Bool) : BitVec 1 := BitVec.ofBool b

/-- `CTRL` as read (10_state.md R30). -/
def Cfg.ctrlWord (c : Cfg) : Word :=
  match c.mode with
  | .dual => 0
  | .single => 1

/-- The mode a write of `CTRL` selects: bit 0 (R30). -/
def modeOf (v : Word) : Mode := if v.getLsbD 0 then .single else .dual

/-- The stored value of a `RESET_US` write: `max(v[15:0], 300)` (10_state.md R34). -/
def resetUsOf (v : Word) : BitVec 16 := BitVec.ofNat 16 (max (v.extractLsb' 0 16).toNat resetUsMin)

/-- `Lx_COUNT` as read (R37). -/
def Lane.countWord (x : Lane) : Word := 0#16 ++ x.count

/-- The lane after a write of `Lx_COUNT` (R37). -/
def Lane.setCount (x : Lane) (v : Word) : Lane := { x with count := v.extractLsb' 0 16 }

/-- `Lx_LAYOUT` as read (R38): `WHITE` 31, `SH3` 28:24, `SH2` 20:16, `SH1` 12:8, `SH0` 4:0, other bits 0. -/
def Lane.layoutWord (x : Lane) : Word :=
  flagBit x.white ++ (0#2 ++ (x.sh3 ++ (0#3 ++ (x.sh2 ++ (0#3 ++ (x.sh1 ++ (0#3 ++ x.sh0)))))))

/-- The lane after a write of `Lx_LAYOUT` (R38). -/
def Lane.setLayout (x : Lane) (v : Word) : Lane :=
  { x with
    sh0 := v.extractLsb' 0 5
    sh1 := v.extractLsb' 8 5
    sh2 := v.extractLsb' 16 5
    sh3 := v.extractLsb' 24 5
    white := v.getLsbD 31 }

/-- `Lx_CTL` as read (R39): `EN` 10, `INV` 9, `GAMMA_EN` 8, `BRIGHT` 7:0, other bits 0. -/
def Lane.ctlWord (x : Lane) : Word :=
  0#21 ++ (flagBit x.en ++ (flagBit x.inv ++ (flagBit x.gammaEn ++ x.bright)))

/-- The lane after a write of `Lx_CTL` (R39). -/
def Lane.setCtl (x : Lane) (v : Word) : Lane :=
  { x with
    bright := v.extractLsb' 0 8
    gammaEn := v.getLsbD 8
    inv := v.getLsbD 9
    en := v.getLsbD 10 }

end Sys2Proof.Machine
end

