-- ==== Sys2Proof/Machine/Timer.lean ====
section
/-! DEFINITION. The symbol timer: frequency check, divider, reset padding (42_symbol_timer.md R171 to R176) and the microsecond
wait timer (R180, R183). All arithmetic is exact, over the naturals (00_scope.md R12). -/

namespace Sys2Proof.Machine

/-- `FREQ_OK` (R171). -/
def Cfg.freqOk (c : Cfg) : Bool := decide (freqMin ≤ c.freq.toNat) && decide (c.freq.toNat ≤ freqMax)

/-- `CLK_DIV` (R172). -/
def clkDiv (p : Params) (c : Cfg) : Nat := if c.freqOk then p.oscHz / (3 * c.freq.toNat) else 0

/-- `RESET_BITS` (R175). -/
def resetBits (p : Params) (c : Cfg) : Nat :=
  if c.freqOk then ceilDiv (c.resetUs.toNat * p.oscHz) (clkDiv p c * 1000000) else 0

/-- `RESET_WORDS` (R176). -/
def resetWords (p : Params) (c : Cfg) : Nat := ceilDiv (resetBits p c) wordBits

/-- One pulse of `US_TICK`: the wait timer counts down, never below 0, whatever `FSM` is (R183). The host's `DELAY` counts the
same microseconds (30_encoding.md R97). -/
def usTick (s : State) : State :=
  { s with
    waitRemain := if s.waitRemain = 0 then 0 else s.waitRemain - 1
    host := { s.host with delay := s.host.delay - 1 } }

end Sys2Proof.Machine
end

