-- ==== Sys2Proof/Machine/Sizing.lean ====
section
/-! DEFINITION. The sizes of the output and the checks of a configuration (41_symbol_packing.md R152 to R158), and the render
wait time (42_symbol_timer.md R178). -/

namespace Sys2Proof.Machine

/-- A lane's LED count if it is active, else 0. -/
def Cfg.activeCount (c : Cfg) (l : LaneId) : Nat := if c.active l then (c.lane l).count.toNat else 0

/-- `NMAX`, the largest LED count of an active lane (R152). -/
def Cfg.nmax (c : Cfg) : Nat := max (c.activeCount .l0) (c.activeCount .l1)

/-- `DATA_WORDS`, sized for four colours whatever the layout (R153). -/
def Cfg.dataWords (c : Cfg) : Nat := ceilDiv (c.nmax * coloursMax * slotsPerByte) wordBits

/-- `LANE_WORDS` (R154). -/
def laneWords (p : Params) (c : Cfg) : Nat := if c.freqOk then c.dataWords + resetWords p c else 0

/-- `BUF_WORDS` (R155). -/
def bufWords (p : Params) (c : Cfg) : Nat := c.nl * laneWords p c

/-- `XFER_BYTES` (R156). -/
def xferBytes (p : Params) (c : Cfg) : Nat := 4 * bufWords p c

/-- The first clause of `CAP_OK`: a lane, if active, has no more LEDs than its pixel RAM has words (R157). -/
def laneFits (p : Params) (c : Cfg) (l : LaneId) : Bool := !c.active l || decide ((c.lane l).count.toNat ≤ p.pixCap)

/-- `CAP_OK` (R157). -/
def capOk (p : Params) (c : Cfg) : Bool :=
  laneFits p c .l0 && laneFits p c .l1 && decide (bufWords p c ≤ c.outCap.toNat) &&
    decide (c.outBaseWord.toNat + 4 * c.outCap.toNat ≤ 2 ^ 32)

/-- `CFG_OK` (R158). -/
def cfgOk (p : Params) (c : Cfg) : Bool := c.freqOk && capOk p c

/-- `WAIT_US`, the render wait time (42_symbol_timer.md R178). -/
def waitUs (p : Params) (c : Cfg) : Nat :=
  if c.freqOk then ceilDiv (laneWords p c * 32 * clkDiv p c * 1000000) p.oscHz else 0

end Sys2Proof.Machine
end

