-- ==== Sys2Proof/Machine/Pixel.lean ====
section
/-! DEFINITION. The pixel pipeline: layout extraction, gamma, brightness, transmit order (40_pixel_pipeline.md R120 to R129). -/

namespace Sys2Proof.Machine

/-- `extract(p, s)`, the raw byte that shift `s` takes out of pixel word `p` (R127). -/
def extractByte (p : Word) (sh : BitVec 5) : Byte := (p >>> sh.toNat).extractLsb' 0 8

/-- `gamma(l, c)` (R122). -/
def gammaOf (s : State) (l : LaneId) (c : Byte) : Byte :=
  if (s.cfg.lane l).gammaEn then s.gamma l c.toNat else c

/-- `(g · BRIGHT) div 255`, the product exact and the quotient truncated (R124). -/
def scaleByte (bright g : Byte) : Byte := BitVec.ofNat 8 (g.toNat * bright.toNat / 255)

/-- `bright(l, g)` (R124). -/
def brightOf (s : State) (l : LaneId) (g : Byte) : Byte := scaleByte (s.cfg.lane l).bright g

/-- `adjust(l, c)`: gamma first, then brightness (R120, R125). -/
def adjust (s : State) (l : LaneId) (c : Byte) : Byte := brightOf s l (gammaOf s l c)

/-- `byte(op, l, i, j)`, the colour byte of LED `i` in transmit slot `j` (R126, R128). -/
def colourByte (s : State) (op : CurOp) (l : LaneId) (i j : Nat) : Byte :=
  match op with
  | .blank => 0
  | .encode => adjust s l (extractByte (s.pix l i) ((s.cfg.lane l).sh j))

/-- `bytes(op, l, i)`, the colour bytes of LED `i` in transmission order (R129). -/
def ledBytes (s : State) (op : CurOp) (l : LaneId) (i : Nat) : List Byte :=
  (List.range (s.cfg.lane l).cpp).map (colourByte s op l i)

end Sys2Proof.Machine
end

