-- ==== Sys2Proof/Machine/Symbols.lean ====
section
/-! DEFINITION. Symbol expansion, packing into words, inversion and the lane interleave (41_symbol_packing.md R142 to R149,
R159). A slot is a Bool, the first sent first in its list (00_scope.md R13). -/

namespace Sys2Proof.Machine

/-- `symbol(b) = [1, b, 0]` (R142). -/
def symbolSlots (b : Bool) : List Bool := [true, b, false]

/-- `byte_slots(x)`: the symbols of bits 7 down to 0 (R143). -/
def byteSlots (x : Byte) : List Bool :=
  (List.range 8).flatMap fun k => symbolSlots (x.getLsbD (7 - k))

/-- `led_slots(op, l, i)` (R144). -/
def ledSlots (s : State) (op : CurOp) (l : LaneId) (i : Nat) : List Bool := (ledBytes s op l i).flatMap byteSlots

/-- `stream(op, l)`, a lane's data slots, LEDs in increasing index (R145). -/
def slotStream (s : State) (op : CurOp) (l : LaneId) : List Bool :=
  if s.cfg.active l then (List.range (s.cfg.lane l).count.toNat).flatMap (ledSlots s op l) else []

/-- `slot(s, n)`: a slot beyond the end of the stream is 0 (R147). -/
def slotAt (str : List Bool) (n : Nat) : Bool := str.getD n false

/-- `sum_{k=0}^{n-1} f(k) << (n-1-k)`: the first slot in the most significant place (R147). -/
def packSlots (f : Nat → Bool) : Nat → Nat
  | 0 => 0
  | n + 1 => 2 * packSlots f n + (f n).toNat

/-- `lane_word(s, w)`: slots `32w` to `32w + 31`, the first in bit 31 (R147). -/
def laneWord (str : List Bool) (w : Nat) : Word := BitVec.ofNat 32 (packSlots (fun k => slotAt str (32 * w + k)) 32)

/-- `inv_word(l, v)`: every slot complemented, idle words too (R149). -/
def invWord (inv : Bool) (v : Word) : Word := if inv then v ^^^ 0xFFFFFFFF#32 else v

/-- The lane that output word `c` belongs to, `c mod NL` (R159). -/
def Cfg.laneOf (cfg : Cfg) (c : Nat) : LaneId := if c % cfg.nl = 0 then .l0 else .l1

/-- `out_word(op, c)` (R159). -/
def outWord (s : State) (op : CurOp) (c : Nat) : Word :=
  invWord (s.cfg.lane (s.cfg.laneOf c)).inv (laneWord (slotStream s op (s.cfg.laneOf c)) (c / s.cfg.nl))

end Sys2Proof.Machine
end

