-- ==== Sys2Proof/Machine/Engine.lean ====
section
/-! DEFINITION. The encoder engine's steps (43_commands.md R196 to R199), what an outside observer of the output bus space sees
(20_memory.md R80) and the block's reset (70_reset_and_hazards.md R240 to R242). -/

namespace Sys2Proof.Machine

/-- The memory takes a word write of the block (20_memory.md R76): no other address changes. -/
def storeWord (a v : Word) (s : State) : State := { s with mem := s.mem.writeWord a.toNat v }

/-- The bus address of the word the engine writes next, `OUT_BASE + 4·CURSOR` (43_commands.md R197). -/
def State.curAddr (s : State) : Word := s.cfg.outAddr s.cursor

/-- The value the engine writes next, `out_word(CUR_OP, CURSOR)` (R197). -/
def State.curWord (s : State) : Word := outWord s s.curOp s.cursor

/-- A held command starts (R196). -/
def startHeld (s : State) : State := { s with fsm := .busy, cursor := 0 }

/-- An acknowledged word step (R197). -/
def wordDone (s : State) : State :=
  { storeWord s.curAddr s.curWord s with cursor := s.cursor + 1, inFlight := false }

/-- A refused word step: `BUS_FAULT` aborts the command. The word that failed is as the memory leaves it, a free value; `DONE`
and `ARM_WAIT_US` keep their values (R197, R199, 60_exceptions.md R227). -/
def wordFault (s : State) : State :=
  raiseErr .busFault
    { storeWord s.curAddr (takeWord s).1 (takeWord s).2 with fsm := .idle, inFlight := false }

/-- The completion step (R198). -/
def completeCommand (s : State) : State :=
  { s with fsm := .idle, done := true, armWaitUs := BitVec.ofNat 32 (waitUs s.params s.cfg) }

/-- The word step, by the memory's answer (R197). While no answer comes the write stays in flight and the engine stays `BUSY`
(R200). -/
def wordStep (answer : MemAnswer) (s : State) : State :=
  match answer with
  | .ok => wordDone s
  | .error => wordFault s
  | .noAnswer => { s with inFlight := true }

/-- One step of the encoder engine: the one its state enables, or none (R196, R197, R198). -/
def engineStep (answer : MemAnswer) (s : State) : State :=
  match s.fsm with
  | .idle => s
  | .pending => if s.waitRemain = 0 then startHeld s else s
  | .busy => if s.cursor < bufWords s.params s.cfg then wordStep answer s else completeCommand s

/-- What an observer of the word at bus address `4·index` sees, and the state after a free bit is used if the word is in flight:
the memory's word, or for the word in flight either that or the word being written (20_memory.md R78, R80). -/
def observedWord (index : BitVec 30) (s : State) : Word × State :=
  let a : Word := index ++ 0#2
  if s.inFlight && a == s.curAddr then
    (if (takeBool s).1 then s.curWord else s.busWord a.toNat, (takeBool s).2)
  else (s.busWord a.toNat, s)

/-- A word read by the DMA reader or the host, outside the block. -/
def observeWord (index : BitVec 30) (s : State) : State :=
  { (observedWord index s).2 with seen := (observedWord index s).1 }

/-- A byte read of the output bus space: bits `[8b+7 : 8b]` of the word that holds it (20_memory.md R73, R74). -/
def observeByte (addr : Word) (s : State) : State :=
  let r := observedWord (addr.extractLsb' 2 30) s
  { r.2 with seen := 0#24 ++ wordByte r.1 (addr.extractLsb' 0 2).toNat }

/-- A byte write of the output bus space by another bus master (20_memory.md R70). -/
def outsideWrite (addr : Word) (v : Byte) (s : State) : State := { s with mem := s.mem.write addr.toNat v }

/-- What becomes of a write in flight when reset is asserted: it lands whole or not at all (70_reset_and_hazards.md R242). -/
def settleInFlight (s : State) : State :=
  if s.inFlight then
    (if (takeBool s).1 then storeWord s.curAddr s.curWord (takeBool s).2 else (takeBool s).2)
  else s

/-- The block's registers, RAMs and hidden state at their reset values: the RAM contents and `CUR_OP` are drawn anew (R240, R241).
The output bus space, the parameters and the agents outside the block are not touched. -/
def clearBlock (s : State) : State :=
  { s with
    cfg := Cfg.reset
    err := .none
    done := false
    werr := false
    buserr := false
    waitRemain := 0
    armWaitUs := 0
    pix0 := []
    pix1 := []
    gamma0 := []
    gamma1 := []
    draw := s.draw + 1
    fsm := .idle
    curOp := Config.curOpDraw (s.draw + 1)
    cursor := 0
    inFlight := false }

/-- The reset step (R240, R242). -/
def resetBlock (s : State) : State := clearBlock (settleInFlight s)

end Sys2Proof.Machine
end

