-- ==== Sys2Proof/WellFormed.lean ====
section
/-! DEFINITION. Which terms of `Instr` are commands of the table: a reserved row's opcode lies in that row's range. -/

namespace Sys2Proof

/-- The opcode of a reserved row is one the row's match and mask admit: `01xx` for the first, `1xxx` for the second
(30_encoding.md R91, R94). -/
def Instr.wellFormed : Instr → Bool
  | .nop => true
  | .encode => true
  | .blank => true
  | .armed => true
  | .reservedLow op => op.extractLsb' 2 2 == 1#2
  | .reservedHigh op => op.extractLsb' 3 1 == 1#1

end Sys2Proof
end

