-- ==== Sys2Proof/Decode.lean ====
section
/-! DEFINITION. The decoder and the encoder of command words (30_encoding.md R90, R91, R94, R96). -/

namespace Sys2Proof

/-- Why bytes are no command word. Every 32-bit word is one, so the one reason is that there are fewer than four bytes. -/
inductive DecodeError
  | tooShort
deriving DecidableEq, Repr

/-- The command with a given opcode (R91). -/
def decodeOp (op : BitVec 4) : Instr :=
  match op.toNat with
  | 0 => .nop
  | 1 => .encode
  | 2 => .blank
  | 3 => .armed
  | n => if n < 8 then .reservedLow op else .reservedHigh op

/-- The command of a command word: the decoder reads `OP = word[3:0]` and nothing else (R90). -/
def decodeWord (w : Word) : Instr := decodeOp (w.extractLsb' 0 4)

/-- The command at the head of a list of bytes, and the bytes after it. A command word is four bytes, little-endian (R73, R96). -/
def decode : List Byte → Except DecodeError (Instr × List Byte)
  | b0 :: b1 :: b2 :: b3 :: rest => .ok (decodeWord (Machine.wordOfBytes b0 b1 b2 b3), rest)
  | _ => .error .tooShort

/-- The opcode of a command (R91). -/
def Instr.op : Instr → BitVec 4
  | .nop => 0x0#4
  | .encode => 0x1#4
  | .blank => 0x2#4
  | .armed => 0x3#4
  | .reservedLow op => op
  | .reservedHigh op => op

/-- The command word of a command, the ignored bits 31:4 written 0 (R90). -/
def encodeWord (i : Instr) : Word := 0#28 ++ i.op

/-- The command word's bytes as they lie in memory. -/
def encode (i : Instr) : List Byte := Machine.bytesOfWord (encodeWord i)

/-- What the decoder reads from an instruction whose bits are `w`, numbered as spec/opcode_table.json numbers them; bits at and
above `nbits` are 0. -/
def decodeTableWord (nbits w : Nat) : Option Instr :=
  match decode (Machine.bytesOfWord (BitVec.ofNat 32 (w % 2 ^ nbits))) with
  | .ok (i, _) => some i
  | .error _ => none

end Sys2Proof
end

