-- ==== Sys2Proof/Machine/Commands.lean ====
section
/-! DEFINITION. The meaning of each command: the step of the `CMD` write (43_commands.md R190 to R195). -/

namespace Sys2Proof.Machine

/-- What a meaning answers. -/
abbrev Result := Host.Outcome State Fault Refusal

/-- An accepted ENCODE or BLANK: `DONE <- 0`, `CUR_OP <- op`, and `PENDING` while the wait timer runs, else `BUSY` from word 0
(R192). -/
def accept (op : CurOp) (s : State) : State :=
  if s.waitRemain = 0 then { s with done := false, curOp := op, fsm := .busy, cursor := 0 }
  else { s with done := false, curOp := op, fsm := .pending }

/-- ENCODE's and BLANK's checks in their order, then acceptance (R192, R193, 60_exceptions.md R229). -/
def startCommand (op : CurOp) (s : State) : State :=
  if s.fsm ≠ .idle then raiseErr .cmdBusy s
  else if !s.cfg.freqOk then raiseErr .illegalFreq s
  else if !capOk s.params s.cfg then raiseErr .outOfMemory s
  else accept op s

/-- NOP: `skip`, in every `FSM` state (R191). -/
def execNop (s : State) : Result := .next s

/-- ENCODE: encode the pixel RAMs into the output buffer (R192). -/
def execEncode (s : State) : Result := .next (startCommand .encode s)

/-- BLANK: write the buffer with every colour byte 0 (R193). -/
def execBlank (s : State) : Result := .next (startCommand .blank s)

/-- ARMED: load the wait timer from `ARM_WAIT_US`, unless a command is in progress (R194). -/
def execArmed (s : State) : Result :=
  .next (if s.fsm ≠ .idle then raiseErr .cmdBusy s else { s with waitRemain := s.armWaitUs })

/-- A reserved opcode of the table's first reserved row: `BAD_CMD` in every `FSM` state (R195, R226). -/
def execReservedLow (_op : BitVec 4) (s : State) : Result := .next (raiseErr .badCmd s)

/-- A reserved opcode of the table's second reserved row (R195, R226). -/
def execReservedHigh (_op : BitVec 4) (s : State) : Result := .next (raiseErr .badCmd s)

end Sys2Proof.Machine
end

