-- ==== Sys2Proof/Machine/Dispatch.lean ====
section
/-! DEFINITION. One arm for each command, each one call of its meaning. -/

namespace Sys2Proof.Machine

def exec (i : Instr) (s : State) : Host.Outcome State Fault Refusal :=
  match i with
  | .nop => Sys2Proof.Machine.execNop s
  | .encode => Sys2Proof.Machine.execEncode s
  | .blank => Sys2Proof.Machine.execBlank s
  | .armed => Sys2Proof.Machine.execArmed s
  | .reservedLow op => Sys2Proof.Machine.execReservedLow op s
  | .reservedHigh op => Sys2Proof.Machine.execReservedHigh op s

end Sys2Proof.Machine
end

