-- ==== Sys2Proof/Machine/Flags.lean ====
section
/-! DEFINITION. The block's flags: the bits of `STATUS` (10_state.md R31, R56) and what a host write to it clears
(43_commands.md R204). -/

namespace Sys2Proof.Machine

/-- The number of an error code (60_exceptions.md R222). -/
def Err.code : Err → BitVec 4
  | .none => 0
  | .outOfMemory => 1
  | .illegalFreq => 2
  | .cmdBusy => 3
  | .badCmd => 4
  | .busFault => 5

/-- `STATUS.BUSY` (R31). -/
def State.busyFlag (s : State) : Bool := s.fsm == .busy

/-- `STATUS.PENDING` (R31). -/
def State.pendingFlag (s : State) : Bool := s.fsm == .pending

/-- `STATUS.WAITING` (R31). -/
def State.waitingFlag (s : State) : Bool := s.waitRemain != 0

/-- `STATUS.CFG_OK` (R31, R158). -/
def State.cfgOkFlag (s : State) : Bool := cfgOk s.params s.cfg

/-- `STATUS` as read: `BUSERR` 14, `WERR` 13, `DONE` 12, `ERR` 11:8, `CFG_OK` 3, `WAITING` 2, `PENDING` 1, `BUSY` 0, other
bits 0; `ERR_CLR` reads 0 (R31). -/
def State.statusWord (s : State) : Word :=
  0#17 ++ (flagBit s.buserr ++ (flagBit s.werr ++ (flagBit s.done ++ (s.err.code ++ (0#4 ++ (flagBit s.cfgOkFlag ++
    (flagBit s.waitingFlag ++ (flagBit s.pendingFlag ++ flagBit s.busyFlag))))))))

/-- A host write to `STATUS` (43_commands.md R204): a 1 in bit 12, 13 or 14 clears `DONE`, `WERR` or `BUSERR`, a 1 in bit 31
clears `ERR`; the other bits are ignored. -/
def writeStatus (v : Word) (s : State) : State :=
  let t : State :=
    { s with
      done := s.done && !v.getLsbD 12
      werr := s.werr && !v.getLsbD 13
      buserr := s.buserr && !v.getLsbD 14 }
  if v.getLsbD 31 then clearErr t else t

end Sys2Proof.Machine
end

