-- ==== Sys2Proof/Machine/HostAccess.lean ====
section
/-! DEFINITION. The host's accesses to the window: the address map (20_memory.md R86), register and RAM reads and writes, the lock
and unsupported accesses (43_commands.md R201 to R206). -/

namespace Sys2Proof.Machine

/-- The register at an offset of the table of 10_state.md section 3 (R50: the other offsets below 0x400 are unmapped). -/
def regAt (off : Nat) : Option Reg :=
  match off with
  | 0x000 => some .ctrl
  | 0x004 => some .status
  | 0x008 => some .cmd
  | 0x00C => some .freq
  | 0x010 => some .resetUs
  | 0x014 => some .outBase
  | 0x018 => some .outCap
  | 0x020 => some (.count .l0)
  | 0x024 => some (.layout .l0)
  | 0x028 => some (.ctl .l0)
  | 0x030 => some (.count .l1)
  | 0x034 => some (.layout .l1)
  | 0x038 => some (.ctl .l1)
  | 0x040 => some .clkDiv
  | 0x044 => some .resetBits
  | 0x048 => some .laneWords
  | 0x04C => some .bufWords
  | 0x050 => some .xferBytes
  | 0x054 => some .waitUs
  | 0x058 => some .waitRemain
  | 0x05C => some .armWaitUs
  | 0x060 => some .paramOscHz
  | 0x064 => some .paramPixCap
  | _ => none

/-- The offset of lane `l`'s gamma RAM (R52). -/
def gammaBase (l : LaneId) : Nat := 0x400 + 0x100 * l.idx

/-- The offset of lane `l`'s pixel RAM (R51). -/
def pixBase (l : LaneId) : Nat := 0x10000 + 0x10000 * l.idx

/-- What a word-aligned window offset names (20_memory.md R86). -/
def placeAt (pixCap off : Nat) : Place :=
  if off < 0x400 then
    match regAt off with
    | some r => .reg r
    | none => .unmapped
  else if off < 0x500 then .gamma .l0 ((off - gammaBase .l0) / 4)
  else if off < 0x600 then .gamma .l1 ((off - gammaBase .l1) / 4)
  else if off < 0x10000 then .unmapped
  else if off < 0x20000 then
    if off < pixBase .l0 + 4 * pixCap then .pix .l0 ((off - pixBase .l0) / 4) else .unmapped
  else if off < 0x30000 then
    if off < pixBase .l1 + 4 * pixCap then .pix .l1 ((off - pixBase .l1) / 4) else .unmapped
  else .unmapped

/-- What a host access reaches: only aligned 32-bit accesses to a mapped offset are supported (20_memory.md R71, 43 R205). -/
def placeOf (s : State) (off width : Nat) : Place :=
  if width = 4 ∧ off % 4 = 0 then placeAt s.params.pixCap off else .unmapped

/-- The registers marked locked in the table of 10_state.md section 3 (R24). -/
def Reg.locked : Reg → Bool
  | .ctrl => true
  | .freq => true
  | .resetUs => true
  | .outBase => true
  | .outCap => true
  | .count _ => true
  | .layout _ => true
  | .ctl _ => true
  | .status => false
  | .cmd => false
  | .clkDiv => false
  | .resetBits => false
  | .laneWords => false
  | .bufWords => false
  | .xferBytes => false
  | .waitUs => false
  | .waitRemain => false
  | .armWaitUs => false
  | .paramOscHz => false
  | .paramPixCap => false

/-- `PARAM_OSC_HZ` as read. R10 admits values of `OSC_HZ` that do not fit in 32 bits; the spec states no value for those. -/
def paramOscRead (oscHz : Nat) : Word := if oscHz < 2 ^ 32 then BitVec.ofNat 32 oscHz else Config.wideOscRead oscHz

/-- The value a host read of a register returns (43_commands.md R203, 10_state.md R30 to R49). -/
def readReg (r : Reg) (s : State) : Word :=
  match r with
  | .ctrl => s.cfg.ctrlWord
  | .status => s.statusWord
  | .cmd => 0
  | .freq => s.cfg.freq
  | .resetUs => 0#16 ++ s.cfg.resetUs
  | .outBase => s.cfg.outBaseWord
  | .outCap => s.cfg.outCap
  | .count l => (s.cfg.lane l).countWord
  | .layout l => (s.cfg.lane l).layoutWord
  | .ctl l => (s.cfg.lane l).ctlWord
  | .clkDiv => BitVec.ofNat 32 (clkDiv s.params s.cfg)
  | .resetBits => BitVec.ofNat 32 (resetBits s.params s.cfg)
  | .laneWords => BitVec.ofNat 32 (laneWords s.params s.cfg)
  | .bufWords => BitVec.ofNat 32 (bufWords s.params s.cfg)
  | .xferBytes => BitVec.ofNat 32 (xferBytes s.params s.cfg)
  | .waitUs => BitVec.ofNat 32 (waitUs s.params s.cfg)
  | .waitRemain => s.waitRemain
  | .armWaitUs => s.armWaitUs
  | .paramOscHz => paramOscRead s.params.oscHz
  | .paramPixCap => BitVec.ofNat 32 s.params.pixCap

/-- The configuration after a write of one of its registers: `RW` bits store, reserved bits are ignored, `RESET_US` is made legal
(43_commands.md R202). A register that is not of the configuration leaves it as it is. -/
def writeCfg (r : Reg) (v : Word) (c : Cfg) : Cfg :=
  match r with
  | .ctrl => { c with mode := modeOf v }
  | .freq => { c with freq := v }
  | .resetUs => { c with resetUs := resetUsOf v }
  | .outBase => { c with outBase := v.extractLsb' 2 30 }
  | .outCap => { c with outCap := v }
  | .count l => c.setLane l ((c.lane l).setCount v)
  | .layout l => c.setLane l ((c.lane l).setLayout v)
  | .ctl l => c.setLane l ((c.lane l).setCtl v)
  | .status => c
  | .cmd => c
  | .clkDiv => c
  | .resetBits => c
  | .laneWords => c
  | .bufWords => c
  | .xferBytes => c
  | .waitUs => c
  | .waitRemain => c
  | .armWaitUs => c
  | .paramOscHz => c
  | .paramPixCap => c

/-- A locked write: made in `IDLE`, else dropped with `WERR` set (R24, R201). -/
def lockedWrite (f : State → State) (s : State) : State := if s.fsm = .idle then f s else setWerr s

/-- A host write of a register: `CMD` issues the command at once (R190), `STATUS` follows R204, a locked register is written in
`IDLE`, a read-only register ignores the write (R202). -/
def writeReg (r : Reg) (v : Word) (s : State) : Result :=
  match r with
  | .cmd => exec (decodeWord v) s
  | .status => .next (writeStatus v s)
  | _ => if r.locked then .next (lockedWrite (fun t => { t with cfg := writeCfg r v t.cfg }) s) else .next s

/-- `HostRead(off, width)`: the value returned and the state after it (R203, R205, R206). -/
def hostRead (off width : Nat) (s : State) : Word × State :=
  match placeOf s off width with
  | .reg r => (readReg r s, s)
  | .gamma l k => (s.gammaWord l k, s)
  | .pix l i => (s.pix l i, s)
  | .unmapped => (0, setBuserr s)

/-- `HostWrite(off, width, v)` (R202, R205, R206). -/
def hostWrite (off width : Nat) (v : Word) (s : State) : Result :=
  match placeOf s off width with
  | .reg r => writeReg r v s
  | .gamma l k => .next (lockedWrite (fun t => t.setGammaWord l k v) s)
  | .pix l i => .next (lockedWrite (fun t => t.setPix l i v) s)
  | .unmapped => .next (setBuserr s)

end Sys2Proof.Machine
end

