-- ==== Sys2Proof/Machine/HostProgram.lean ====
section
/-! DEFINITION. The host agent: one statement of its program a step (30_encoding.md R97), and the listing the programs are written
in, with its targets, labels and pseudo-instructions (R97, R98). -/

namespace Sys2Proof.Machine

/-! ### Running a statement -/

/-- The host's place in its program. -/
def setHostPc (pc : Nat) (s : State) : State := { s with host := { s.host with pc := pc } }

/-- A host read whose value the host keeps. -/
def readInto (off width : Nat) (s : State) : State :=
  { (hostRead off width s).2 with host := { s.host with readData := (hostRead off width s).1 } }

/-- One statement, at place `pc` (R97): `WR` one write, `RD`, `POLL` and `BNE` one read, `DELAY` no access. -/
def runStmt (st : Stmt) (pc : Nat) (s : State) : Result :=
  match st with
  | .wr off width v => hostWrite off width v (setHostPc (pc + 1) s)
  | .rd off width => .next (setHostPc (pc + 1) (readInto off width s))
  | .poll off mask v =>
    let t := readInto off 4 s
    .next (if t.host.readData &&& mask = v then setHostPc (pc + 1) t else t)
  | .bne off mask v target =>
    let t := readInto off 4 s
    .next (setHostPc (if t.host.readData &&& mask = v then pc + 1 else target) t)
  | .delay us => .next { s with host := { s.host with pc := pc + 1, delay := us } }

/-- The host's step: nothing while a `DELAY` runs or when the program is over, else the statement it is at. -/
def hostStep (s : State) : Result :=
  if s.host.delay ≠ 0 then .next s
  else
    match s.host.program[s.host.pc]? with
    | none => .next s
    | some st => runStmt st s.host.pc s

/-- The state in which the host's next statement is a write of a command word to `CMD` and the host moves next. -/
def placeCommand (w : Word) (s : State) : State :=
  { s with
    host :=
      { s.host with
        program := s.host.program.take s.host.pc ++ .wr 0x008 4 w :: s.host.program.drop (s.host.pc + 1)
        pc := (s.host.program.take s.host.pc).length
        delay := 0 }
    sched := .host :: s.sched }

/-! ### The listing -/

/-- The offset of a register (10_state.md section 3). -/
def Reg.offset : Reg → Nat
  | .ctrl => 0x000
  | .status => 0x004
  | .cmd => 0x008
  | .freq => 0x00C
  | .resetUs => 0x010
  | .outBase => 0x014
  | .outCap => 0x018
  | .count l => 0x020 + 0x10 * l.idx
  | .layout l => 0x024 + 0x10 * l.idx
  | .ctl l => 0x028 + 0x10 * l.idx
  | .clkDiv => 0x040
  | .resetBits => 0x044
  | .laneWords => 0x048
  | .bufWords => 0x04C
  | .xferBytes => 0x050
  | .waitUs => 0x054
  | .waitRemain => 0x058
  | .armWaitUs => 0x05C
  | .paramOscHz => 0x060
  | .paramPixCap => 0x064

/-- A target of a listing statement (R97). -/
inductive Target
  | reg (r : Reg)
  | pix (l : LaneId) (i : Nat)
  | gamma (l : LaneId) (k : Nat)
  | offset (off : Nat)
deriving DecidableEq, Repr

/-- `off(target)`. -/
def Target.off : Target → Nat
  | .reg r => r.offset
  | .pix l i => pixBase l + 4 * i
  | .gamma l k => gammaBase l + 4 * k
  | .offset off => off

/-- A statement or pseudo-instruction as a listing writes it (R97, R98). -/
inductive Source
  | wr (t : Target) (v : Word)
  | rd (t : Target)
  | poll (t : Target) (mask v : Word)
  | bne (t : Target) (mask v : Word) (label : String)
  | delay (us : Nat)
  | nop
  | encode
  | blank
  | armed
  | clrErr
  | clrFlags
  | waitIdle
  | lane (l : LaneId) (count layout ctl : Word)
  | gammaEntries (l : LaneId) (k : Nat) (e0 e1 e2 e3 : Byte)
deriving DecidableEq, Repr

/-- A line of a listing: a statement, with the label that names it if there is one (R97). -/
structure Line where
  label : Option String
  source : Source
deriving DecidableEq, Repr

/-- A pseudo-instruction's expansion into `WR` and `POLL` statements (R98); another statement is left as it is. -/
def Source.expand (src : Source) : List Source :=
  match src with
  | .nop => [.wr (.reg .cmd) 0x0]
  | .encode => [.wr (.reg .cmd) 0x1]
  | .blank => [.wr (.reg .cmd) 0x2]
  | .armed => [.wr (.reg .cmd) 0x3]
  | .clrErr => [.wr (.reg .status) 0x80000000]
  | .clrFlags => [.wr (.reg .status) 0x00007000]
  | .waitIdle => [.poll (.reg .status) 0x00000003 0x00000000]
  | .lane l count layout ctl => [.wr (.reg (.count l)) count, .wr (.reg (.layout l)) layout, .wr (.reg (.ctl l)) ctl]
  | .gammaEntries l k e0 e1 e2 e3 => [.wr (.gamma l k) (wordOfBytes e0 e1 e2 e3)]
  | .wr t v => [.wr t v]
  | .rd t => [.rd t]
  | .poll t mask v => [.poll t mask v]
  | .bne t mask v label => [.bne t mask v label]
  | .delay us => [.delay us]

/-- The place in the program of the statement a label names: the number of expanded statements before its line. -/
def labelPlace (lines : List Line) (label : String) : Option Nat :=
  match lines with
  | [] => none
  | ln :: rest =>
    if ln.label = some label then some 0 else (labelPlace rest label).map (· + ln.source.expand.length)

/-- The bus statement of an expanded listing statement, its label resolved; none if no line has the label, or if the statement is
a pseudo-instruction (which `Source.expand` never leaves). -/
def Source.stmt (lines : List Line) (src : Source) : Option Stmt :=
  match src with
  | .wr t v => some (.wr t.off 4 v)
  | .rd t => some (.rd t.off 4)
  | .poll t mask v => some (.poll t.off mask v)
  | .bne t mask v label => (labelPlace lines label).map (.bne t.off mask v)
  | .delay us => some (.delay us)
  | .nop => none
  | .encode => none
  | .blank => none
  | .armed => none
  | .clrErr => none
  | .clrFlags => none
  | .waitIdle => none
  | .lane _ _ _ _ => none
  | .gammaEntries _ _ _ _ _ _ => none

/-- The program a listing stands for, or none if it uses a label that no line has. -/
def assemble (lines : List Line) : Option (List Stmt) :=
  (lines.flatMap fun ln => ln.source.expand).mapM (Source.stmt lines)

end Sys2Proof.Machine
end

