-- ==== Sys2Proof/Machine/Agents.lean ====
section
/-! DEFINITION. One move of one agent, and which move comes next (00_scope.md R3, 60_exceptions.md R229), the engine and the
timer weakly fair (92 D15). -/

namespace Sys2Proof.Machine

/-- A round of free moves: any moves, one of the encoder engine, any moves, one tick. So where no move is fixed the engine and the
timer are weakly fair, and every interleaving in which they are is a sequence of rounds (42_symbol_timer.md R181, 43_commands.md
R200, 70_reset_and_hazards.md R258; 92 D15). -/
def freeRound (ix : Nat) : List Move :=
  Config.movesBefore ix ++ .engine (Config.freeAnswer ix) :: (Config.movesBetween ix ++ [.tick])

/-- The next move: the first of those fixed, or the first of a fresh free round. -/
def State.nextMove (s : State) : Move :=
  match s.sched with
  | m :: _ => m
  | [] => (freeRound s.freeIx).headD .tick

/-- The state in which the next move is made: that move is used up, and the rest of a free round it opened is fixed. -/
def State.popMove (s : State) : State :=
  match s.sched with
  | _ :: rest => { s with sched := rest }
  | [] => { s with sched := (freeRound s.freeIx).tail, freeIx := s.freeIx + 1 }

/-- One atomic move of one agent. -/
def doMove (m : Move) (s : State) : Result :=
  match m with
  | .host => hostStep s
  | .engine answer => .next (engineStep answer s)
  | .tick => .next (usTick s)
  | .reset => .next (resetBlock s)
  | .observeWord index => .next (observeWord index s)
  | .observeByte addr => .next (observeByte addr s)
  | .outsideWrite addr v => .next (outsideWrite addr v s)

/-- The next move made. -/
def stepMove (s : State) : Result := doMove s.nextMove s.popMove

end Sys2Proof.Machine
end

