-- ==== Sys2Proof/Machine/Step.lean ====
section
/-! DEFINITION. One step of the machine, and how an instruction is placed so that the next step runs it. -/

namespace Sys2Proof.Machine

/-- One step: the next move of the agents. -/
def step (s : State) : Host.Outcome State Fault Refusal := stepMove s

/-- The state whose next step issues the command word `w` (of `nbits` bits): the host's next statement writes it to `CMD`, and the
host moves next. The block fetches nothing (10_state.md R21), so this stands for the host issuing the command (43 R190). -/
def State.withFetchWord (s : State) (nbits w : Nat) : State := placeCommand (BitVec.ofNat 32 (w % 2 ^ nbits)) s

end Sys2Proof.Machine
end

