-- ==== Sys2Proof/Machine/Line.lean ====
section
/-! DEFINITION. What the output words put on a lane's data line, if the host keeps its duties at the block's boundary: the serializer
shifts each word out bit 31 first, takes the words in order, alternately for the two sub-channels in DUAL mode, and each inverting
stage complements every slot (41_symbol_packing.md R148, 70_reset_and_hazards.md R253 to R255). -/

namespace Sys2Proof.Machine

/-- The slots of a word in the order the serializer shifts them out (R147, R254). -/
def wordSlots (v : Word) : List Bool := (List.range 32).map fun k => v.getLsbD (31 - k)

/-- The slots that lane `l`'s sub-channel shifts out of a buffer of `nl · n` words: words `l`, `l + NL`, ... (R159, R255). -/
def serialSlots (nl n : Nat) (l : LaneId) (buffer : Nat → Word) : List Bool :=
  (List.range n).flatMap fun w => wordSlots (buffer (nl * w + l.idx))

/-- The levels on the data line after the serializer's polarity stage and the board's output stage; true is high (R148, R253). -/
def lineLevels (polarity board : Bool) (slots : List Bool) : List Bool := slots.map fun b => xor board (xor polarity b)

/-- How many slot periods of a symbol the line is high: 2 for a data bit 1, 1 for a data bit 0 (42_symbol_timer.md R174). -/
def symbolHighSlots (b : Bool) : Nat := (symbolSlots b).count true

end Sys2Proof.Machine
end

