-- ==== Sys2Proof/Safety.lean ====
section
/-! DEFINITION. What counts as a safe state and run, in the terms the statements use. -/

namespace Sys2Proof.Machine

/-- What every reachable state satisfies: the parameters are legal (00_scope.md R10); `RESET_US` is at least 300 (10_state.md R34);
the output bus space and the RAMs are in their canonical form and inside their bounds; a command in progress has the legal
configuration it was accepted with (43_commands.md R192, R201), and `DONE` is 0 meanwhile (R192, R198, R199); the cursor stays
inside the buffer (10_state.md R55); and a write is in flight only while the engine has a word to write (43_commands.md R197). -/
structure Inv (s : State) : Prop where
  params : s.params.legal = true
  resetUs : 300 ≤ s.cfg.resetUs.toNat
  mem : s.mem.wf = true
  pix : ∀ l, Cells.wf s.params.pixCap (s.pixRam l) = true
  gamma : ∀ l, Cells.wf 256 (s.gammaRam l) = true
  accepted : s.fsm ≠ .idle → cfgOk s.params s.cfg = true
  notDone : s.fsm ≠ .idle → s.done = false
  cursor : s.fsm = .busy → s.cursor ≤ bufWords s.params s.cfg
  inFlight : s.inFlight = true → s.fsm = .busy ∧ s.cursor < bufWords s.params s.cfg

/-- While a command runs, the memory holds the new value of every output word before the cursor (20_memory.md R80, 43 R200). -/
def BufferHolds (s : State) : Prop :=
  s.fsm = .busy → ∀ c, c < s.cursor → s.busWord (s.cfg.outAddr c).toNat = outWord s s.curOp c

/-- The moves of the first `k` steps from a state. -/
def movesOf : Nat → State → List Move
  | 0, _ => []
  | k + 1, s =>
    s.nextMove ::
      match step s with
      | .next t => movesOf k t
      | .fault _ => []
      | .refused _ => []

/-- A bus address is one of the four bytes of the word at `a`. -/
def inWord (a : Word) (b : Nat) : Prop := a.toNat ≤ b ∧ b < a.toNat + 4

/-- The host's next statement writes `v` at window offset `off` with an access of four bytes. -/
def hostWrites (s : State) (off : Nat) (v : Word) : Prop :=
  s.nextMove = .host ∧ s.host.delay = 0 ∧ s.host.program[s.host.pc]? = some (.wr off 4 v)

/-- A legal data-bit frequency, bounds included (42_symbol_timer.md R171). -/
def FreqLegal (c : Cfg) : Prop := 400000 ≤ c.freq.toNat ∧ c.freq.toNat ≤ 800000

/-- The capacity condition of 41_symbol_packing.md R157, in the rule's own words: no active lane has more LEDs than its pixel RAM has
words, the buffer fits the capacity, and the capacity does not run past the top of the bus space. -/
def CapacityHolds (p : Params) (c : Cfg) : Prop :=
  (∀ l, c.active l = true → (c.lane l).count.toNat ≤ p.pixCap) ∧ bufWords p c ≤ c.outCap.toNat ∧
    4 * c.outBase.toNat + 4 * c.outCap.toNat ≤ 2 ^ 32

/-- The error a command issued in a state raises, in the words and the order of 60_exceptions.md R229; none if no clause holds. -/
def Raises (i : Instr) (s : State) (e : Err) : Prop :=
  (e = .badCmd ∧ ∃ op, i = .reservedLow op ∨ i = .reservedHigh op) ∨
  (e = .cmdBusy ∧ (i = .encode ∨ i = .blank ∨ i = .armed) ∧ s.fsm ≠ .idle) ∨
  (e = .illegalFreq ∧ (i = .encode ∨ i = .blank) ∧ s.fsm = .idle ∧ ¬FreqLegal s.cfg) ∨
  (e = .outOfMemory ∧ (i = .encode ∨ i = .blank) ∧ s.fsm = .idle ∧ FreqLegal s.cfg ∧ ¬CapacityHolds s.params s.cfg)

/-- The window offsets of the configuration registers (10_state.md section 3: RW and WARL). -/
def configOffsets : List Nat := [0x000, 0x00C, 0x010, 0x014, 0x018, 0x020, 0x024, 0x028, 0x030, 0x034, 0x038]

/-- What a configuration register reads after `v` is written to it in IDLE (10_state.md R30, R33 to R39). -/
def readBack (off : Nat) (v : Word) : Word :=
  if off = 0x000 then v &&& 0x00000001#32
  else if off = 0x010 then BitVec.ofNat 32 (max (v &&& 0x0000FFFF#32).toNat 300)
  else if off = 0x014 then v &&& 0xFFFFFFFC#32
  else if off = 0x020 ∨ off = 0x030 then v &&& 0x0000FFFF#32
  else if off = 0x024 ∨ off = 0x034 then v &&& 0x9F1F1F1F#32
  else if off = 0x028 ∨ off = 0x038 then v &&& 0x000007FF#32
  else v

/-- A window offset that R86 maps to a register, a gamma RAM word or a pixel RAM word. -/
def windowMapped (p : Params) (off : Nat) : Prop :=
  off ∈ [0x000, 0x004, 0x008, 0x00C, 0x010, 0x014, 0x018, 0x020, 0x024, 0x028, 0x030, 0x034, 0x038, 0x040, 0x044, 0x048,
      0x04C, 0x050, 0x054, 0x058, 0x05C, 0x060, 0x064] ∨
    (0x400 ≤ off ∧ off < 0x600) ∨
    (0x10000 ≤ off ∧ off < 0x10000 + 4 * p.pixCap) ∨ (0x20000 ≤ off ∧ off < 0x20000 + 4 * p.pixCap)

/-- A window offset that R201 locks while a command is in progress. -/
def windowLocked (p : Params) (off : Nat) : Prop :=
  off ∈ configOffsets ∨
    (0x400 ≤ off ∧ off < 0x600) ∨
    (0x10000 ≤ off ∧ off < 0x10000 + 4 * p.pixCap) ∨ (0x20000 ≤ off ∧ off < 0x20000 + 4 * p.pixCap)

end Sys2Proof.Machine
end

