-- ==== Sys2Proof/Certificates/Slice0/Obligations.lean ====
section
/-! DEFINITION. The statements for the provers. Each docstring says which rule of the spec it formalises, or what it is derived from. -/

open Sys2Proof Sys2Proof.Machine

/-! ### Encoding -/

/-- 30_encoding.md R90, R91: the decoder gives back every well-formed command from its own bytes, and leaves the bytes after them. -/
def Obligations.DecodeAfterEncode : Prop :=
  ∀ (i : Instr) (rest : List Byte), i.wellFormed = true → decode (encode i ++ rest) = .ok (i, rest)

/-- R90: the decoder reads bits 3:0 and nothing else; what it reads is well formed and encodes to those bits. -/
def Obligations.DecoderReadsOpcodeAlone : Prop :=
  ∀ w : Word, (decodeWord w).wellFormed = true ∧ encodeWord (decodeWord w) = w &&& 0x0000000F#32 ∧
    ∀ w' : Word, w' &&& 0x0000000F#32 = w &&& 0x0000000F#32 → decodeWord w' = decodeWord w

/-- R91 and the words of 95_test_vectors.md V-C1: words written out bit by bit decode to the commands they stand for. -/
def Obligations.DecodeWrittenOutWords : Prop :=
  decodeWord 0b0000_0000_0000_0000_0000_0000_0001_0000#32 = .nop ∧
  decodeWord 0b1111_1111_1111_1111_1111_1111_1111_0001#32 = .encode ∧
  decodeWord 0b0000_0000_0000_0000_0000_0000_0000_0010#32 = .blank ∧
  decodeWord 0b0001_0010_0011_0100_0101_0110_0111_0011#32 = .armed ∧
  decodeWord 0b0000_0000_0000_0000_0000_0000_0000_0111#32 = .reservedLow 0b0111#4 ∧
  decodeWord 0b0000_0000_0000_0000_0000_0000_0000_1000#32 = .reservedHigh 0b1000#4

/-! ### Issuing a command -/

/-- 43_commands.md R190, first half: a host write of `CMD` is the command's own step, whatever `FSM` is. -/
def Obligations.CmdWriteIssuesCommand : Prop :=
  ∀ (w : Word) (s : State), hostWrite 0x008 4 w s = exec (decodeWord w) s

/-- R190: when the host's next statement writes a command word, the step is the command's meaning, on the state in which that move is
used up and the host is past the statement. That using up a fixed move removes the first of `sched` and changes nothing else is the
model's choice (log entry 1). -/
def Obligations.StepRunsDecodedCommand : Prop :=
  ∀ (s : State) (w : Word) (i : Instr) (rest : List Byte),
    hostWrites s 0x008 w → decode (bytesOfWord w) = .ok (i, rest) →
    step s = exec i { s.popMove with host := { s.host with pc := s.host.pc + 1 } } ∧
    ∀ ms, s.sched = .host :: ms → s.popMove = { s with sched := ms }

/-- The command word placed by `withFetchWord` is the one the very next step runs (the model's own placing: log entry 2). -/
def Obligations.PlacedCommandRunsNext : Prop :=
  ∀ (s : State) (nbits w : Nat) (i : Instr), decodeTableWord nbits w = some i →
    step (s.withFetchWord nbits w) =
      exec i { s with
        host :=
          { s.host with
            program := (s.withFetchWord nbits w).host.program
            pc := (s.withFetchWord nbits w).host.pc + 1
            delay := 0 } }

/-! ### The commands -/

/-- R191: NOP does nothing, in every `FSM` state. -/
def Obligations.NopDoesNothing : Prop :=
  (∀ w : Word, w &&& 0x0000000F#32 = 0x0#32 → decodeWord w = .nop) ∧
  ∀ s : State, exec .nop s = .next s

/-- R192: ENCODE's checks in their order, each error with no other effect, and what acceptance sets. -/
def Obligations.EncodeMeaning : Prop :=
  (∀ w : Word, w &&& 0x0000000F#32 = 0x1#32 → decodeWord w = .encode) ∧
  ∀ s : State,
    (s.fsm ≠ .idle → exec .encode s = .next { s with err := .cmdBusy }) ∧
    (s.fsm = .idle → ¬FreqLegal s.cfg → exec .encode s = .next { s with err := .illegalFreq }) ∧
    (s.fsm = .idle → FreqLegal s.cfg → ¬CapacityHolds s.params s.cfg →
      exec .encode s = .next { s with err := .outOfMemory }) ∧
    (s.fsm = .idle → FreqLegal s.cfg → CapacityHolds s.params s.cfg → 0 < s.waitRemain.toNat →
      exec .encode s = .next { s with done := false, curOp := .encode, fsm := .pending }) ∧
    (s.fsm = .idle → FreqLegal s.cfg → CapacityHolds s.params s.cfg → s.waitRemain.toNat = 0 →
      exec .encode s = .next { s with done := false, curOp := .encode, fsm := .busy, cursor := 0 })

/-- R193: BLANK's checks and acceptance are ENCODE's, with `CUR_OP <- BLANK`. -/
def Obligations.BlankMeaning : Prop :=
  (∀ w : Word, w &&& 0x0000000F#32 = 0x2#32 → decodeWord w = .blank) ∧
  ∀ s : State,
    (s.fsm ≠ .idle → exec .blank s = .next { s with err := .cmdBusy }) ∧
    (s.fsm = .idle → ¬FreqLegal s.cfg → exec .blank s = .next { s with err := .illegalFreq }) ∧
    (s.fsm = .idle → FreqLegal s.cfg → ¬CapacityHolds s.params s.cfg →
      exec .blank s = .next { s with err := .outOfMemory }) ∧
    (s.fsm = .idle → FreqLegal s.cfg → CapacityHolds s.params s.cfg → 0 < s.waitRemain.toNat →
      exec .blank s = .next { s with done := false, curOp := .blank, fsm := .pending }) ∧
    (s.fsm = .idle → FreqLegal s.cfg → CapacityHolds s.params s.cfg → s.waitRemain.toNat = 0 →
      exec .blank s = .next { s with done := false, curOp := .blank, fsm := .busy, cursor := 0 })

/-- R194: ARMED loads the wait timer from `ARM_WAIT_US` in `IDLE`, with no other check, and is `CMD_BUSY` otherwise. -/
def Obligations.ArmedMeaning : Prop :=
  (∀ w : Word, w &&& 0x0000000F#32 = 0x3#32 → decodeWord w = .armed) ∧
  ∀ s : State,
    (s.fsm ≠ .idle → exec .armed s = .next { s with err := .cmdBusy }) ∧
    (s.fsm = .idle → exec .armed s = .next { s with waitRemain := s.armWaitUs })

/-- R195, R226: a reserved opcode sets `BAD_CMD` and nothing else, in every `FSM` state. -/
def Obligations.ReservedOpcodesRaiseBadCmd : Prop :=
  (∀ (op : BitVec 4) (s : State), exec (.reservedLow op) s = .next { s with err := .badCmd }) ∧
  (∀ (op : BitVec 4) (s : State), exec (.reservedHigh op) s = .next { s with err := .badCmd }) ∧
  (∀ (w : Word) (s : State), 4 ≤ (w &&& 0x0000000F#32).toNat →
    hostWrite 0x008 4 w s = .next { s with err := .badCmd })

/-- 60_exceptions.md R220: a command that raises an error, as `Raises` in Safety.lean lists them from R229, leaves every other part of
the state as it was, whatever `ERR` held; one that raises none keeps `ERR`; and so a change of `ERR` is all that changed. -/
def Obligations.CommandErrorsArePrecise : Prop :=
  ∀ (i : Instr) (s : State),
    (∀ e, Raises i s e → e ≠ .none ∧ exec i s = .next { s with err := e }) ∧
    (∀ t, exec i s = .next t →
      ((∀ e, ¬Raises i s e) → t.err = s.err) ∧ (t.err ≠ s.err → t = { s with err := t.err }))

/-- 60_exceptions.md R229: one `CMD` write raises at most one error, that of the first check that fails. -/
def Obligations.FirstFailingCheckIsRaised : Prop :=
  ∀ (w : Word) (s : State), ∃ t, hostWrite 0x008 4 w s = .next t ∧
    (4 ≤ (w &&& 0x0000000F#32).toNat → t.err = .badCmd) ∧
    (w &&& 0x0000000F#32 ∈ [0x1#32, 0x2#32, 0x3#32] → s.fsm ≠ .idle → t.err = .cmdBusy) ∧
    (w &&& 0x0000000F#32 ∈ [0x1#32, 0x2#32] → s.fsm = .idle → ¬FreqLegal s.cfg → t.err = .illegalFreq) ∧
    (w &&& 0x0000000F#32 ∈ [0x1#32, 0x2#32] → s.fsm = .idle → FreqLegal s.cfg → ¬CapacityHolds s.params s.cfg →
      t.err = .outOfMemory) ∧
    (w &&& 0x0000000F#32 ∈ [0x1#32, 0x2#32] → s.fsm = .idle → FreqLegal s.cfg → CapacityHolds s.params s.cfg →
      t.err = s.err) ∧
    (w &&& 0x0000000F#32 = 0x3#32 → s.fsm = .idle → t.err = s.err) ∧
    (w &&& 0x0000000F#32 = 0x0#32 → t.err = s.err)

/-- 41_symbol_packing.md R158: `CFG_OK`, as `STATUS` shows it, is 1 exactly when an ENCODE or BLANK issued in `IDLE` is accepted. -/
def Obligations.CfgOkShowsAcceptance : Prop :=
  ∀ s : State, s.fsm = .idle →
    ((hostRead 0x004 4 s).1.getLsbD 3 = true ↔ FreqLegal s.cfg ∧ CapacityHolds s.params s.cfg) ∧
    ((hostRead 0x004 4 s).1.getLsbD 3 = true ↔ ∃ t, exec .encode s = .next t ∧ t.fsm ≠ .idle) ∧
    ((hostRead 0x004 4 s).1.getLsbD 3 = true ↔ ∃ t, exec .blank s = .next t ∧ t.fsm ≠ .idle)

/-- The frame of all commands (R191 to R195): no command changes the configuration, the RAMs, any byte of the output bus space,
`ARM_WAIT_US`, `WERR`, `BUSERR` or the parameters; `WAIT_REMAIN` changes by ARMED alone; `DONE`, `CUR_OP`, `FSM` and `CURSOR` by
ENCODE and BLANK alone. -/
def Obligations.CommandFrame : Prop :=
  ∀ (i : Instr) (s t : State), exec i s = .next t →
    t = { s with
      err := t.err, waitRemain := t.waitRemain, done := t.done, curOp := t.curOp, fsm := t.fsm, cursor := t.cursor } ∧
    (∀ a, t.mem.read a = s.mem.read a) ∧
    (∀ l j, t.pix l j = s.pix l j) ∧ (∀ l c, t.gamma l c = s.gamma l c) ∧
    (i ≠ .armed → t.waitRemain = s.waitRemain) ∧
    (i ≠ .encode → i ≠ .blank → t.done = s.done ∧ t.curOp = s.curOp ∧ t.fsm = s.fsm ∧ t.cursor = s.cursor)

/-! ### The whole machine -/

/-- 60_exceptions.md R220, R235: no step of any agent stops the machine. 42_symbol_timer.md R181, 43_commands.md R200, 70 R258 and 92 D15:
the encoder engine and the timer are weakly fair: from every state, so again and again along every run, the engine moves and a tick
comes. How the free moves are drawn is the model's choice (log entry 21). -/
def Obligations.StepAnswersNext : Prop :=
  ∀ s : State, (∃ t, step s = .next t) ∧
    (∃ (k : Nat) (a : MemAnswer), Move.engine a ∈ movesOf k s) ∧ ∃ k : Nat, Move.tick ∈ movesOf k s

/-- The invariant holds right after reset (10_state.md R57; the parameters as 00_scope.md R10 bounds them). -/
def Obligations.ResetSatisfiesInvariant : Prop := Inv State.reset

/-- Every step of every agent keeps the invariant: legal parameters, `RESET_US` at least 300, canonical memory and RAMs, a legal
configuration and `DONE = 0` while a command is in progress, and the cursor inside the buffer. -/
def Obligations.StepKeepsInvariant : Prop := ∀ s t : State, Inv s → step s = .next t → Inv t

/-- 10_state.md R53, 43_commands.md R196, R198, R199, 70 R240: which moves change the operation state, and how. 43_commands.md R200, 70
R258, 42_symbol_timer.md R181: a held command is held for finitely many steps, and a command in `BUSY` ends after finitely many,
unless a write is never answered: then from some step on the engine is `BUSY` with that write in flight for ever. That the engine and
the timer move again from every state is how the model draws its free moves (log entry 21). -/
def Obligations.OperationStateTransitions : Prop :=
  (∀ s : State, s.fsm = .pending → ∃ k t, core.run k s = .next t ∧ t.fsm ≠ .pending) ∧
  (∀ s : State, s.fsm = .busy →
    (∃ k t, core.run k s = .next t ∧ t.fsm = .idle) ∨
    (∃ k, ∀ j t, k ≤ j → core.run j s = .next t →
      t.fsm = .busy ∧ t.inFlight = true ∧ ∀ a, t.nextMove = .engine a → a = .noAnswer)) ∧
  ∀ s t : State, step s = .next t → t.fsm ≠ s.fsm →
    (s.fsm = .idle →
      ∃ v, hostWrites s 0x008 v ∧ (decodeWord v = .encode ∨ decodeWord v = .blank) ∧
        (t.fsm = .pending ↔ 0 < s.waitRemain.toNat)) ∧
    (s.fsm = .pending →
      ((∃ a, s.nextMove = .engine a) ∧ s.waitRemain.toNat = 0 ∧ t.fsm = .busy ∧ t.cursor = 0) ∨
      (s.nextMove = .reset ∧ t.fsm = .idle)) ∧
    (s.fsm = .busy →
      t.fsm = .idle ∧
      (((∃ a, s.nextMove = .engine a) ∧ bufWords s.params s.cfg ≤ s.cursor ∧ t.done = true) ∨
       (s.nextMove = .engine .error ∧ s.cursor < bufWords s.params s.cfg ∧ t.err = .busFault ∧ t.done = s.done) ∨
       s.nextMove = .reset))

/-- 43_commands.md R201, 30_encoding.md R92: while a command is in progress, no move but reset changes the configuration, a pixel word
or a gamma entry. -/
def Obligations.ConfigurationHeldWhileWorking : Prop :=
  ∀ s t : State, s.fsm ≠ .idle → s.nextMove ≠ .reset → step s = .next t →
    t.cfg = s.cfg ∧ (∀ l i, t.pix l i = s.pix l i) ∧ (∀ l c, t.gamma l c = s.gamma l c)

/-- 70_reset_and_hazards.md R241, 10_state.md R51, R52: an entry of a RAM, drawn or written, keeps its value until the host writes it
in `IDLE` or the block is reset. -/
def Obligations.RamEntriesKeepTheirValue : Prop :=
  ∀ s t : State, step s = .next t → s.nextMove ≠ .reset →
    (∀ l i, t.pix l i ≠ s.pix l i →
      s.fsm = .idle ∧ i < s.params.pixCap ∧ hostWrites s (0x10000 + 0x10000 * l.idx + 4 * i) (t.pix l i)) ∧
    (∀ l c, t.gamma l c ≠ s.gamma l c →
      s.fsm = .idle ∧ c < 256 ∧
        ∃ v, hostWrites s (0x400 + 0x100 * l.idx + 4 * (c / 4)) v ∧ t.gamma l c = wordByte v (c % 4))

/-- 42_symbol_timer.md R183: a tick counts `WAIT_REMAIN` down by one and not below 0, whatever `FSM` is, and nothing else of the block
changes; nothing else changes `WAIT_REMAIN` except ARMED and reset. That a tick also lowers the host's `DELAY` by one is the model's
choice (log entry 16). -/
def Obligations.WaitTimerCountsDown : Prop :=
  (∀ s : State, s.nextMove = .tick → ∃ r : Word, r.toNat = s.waitRemain.toNat - 1 ∧
    step s = .next { s.popMove with waitRemain := r, host := { s.host with delay := s.host.delay - 1 } }) ∧
  (∀ s t : State, step s = .next t → t.waitRemain ≠ s.waitRemain → s.nextMove ≠ .tick →
    (s.nextMove = .reset ∧ t.waitRemain = 0) ∨
    (∃ v, hostWrites s 0x008 v ∧ decodeWord v = .armed ∧ s.fsm = .idle ∧ t.waitRemain = s.armWaitUs))

/-- 60_exceptions.md R231: what clears `ERR`, `DONE`, `WERR` and `BUSERR`, and that nothing else does. -/
def Obligations.FlagsAreClearedOnlyAsStated : Prop :=
  ∀ s t : State, step s = .next t →
    (s.nextMove = .reset → t.err = .none ∧ t.done = false ∧ t.werr = false ∧ t.buserr = false) ∧
    (∀ v, hostWrites s 0x004 v →
      (v.getLsbD 31 = true → t.err = .none) ∧ (v.getLsbD 12 = true → t.done = false) ∧
      (v.getLsbD 13 = true → t.werr = false) ∧ (v.getLsbD 14 = true → t.buserr = false)) ∧
    (∀ v, hostWrites s 0x008 v → (decodeWord v = .encode ∨ decodeWord v = .blank) → s.fsm = .idle → FreqLegal s.cfg →
      CapacityHolds s.params s.cfg → t.done = false) ∧
    (s.nextMove ≠ .reset →
      (s.err ≠ .none → t.err = .none → ∃ v, hostWrites s 0x004 v ∧ v.getLsbD 31 = true) ∧
      (s.done = true → t.done = false →
        (∃ v, hostWrites s 0x004 v ∧ v.getLsbD 12 = true) ∨
        (∃ v, hostWrites s 0x008 v ∧ (decodeWord v = .encode ∨ decodeWord v = .blank) ∧ t.fsm ≠ .idle)) ∧
      (s.werr = true → t.werr = false → ∃ v, hostWrites s 0x004 v ∧ v.getLsbD 13 = true) ∧
      (s.buserr = true → t.buserr = false → ∃ v, hostWrites s 0x004 v ∧ v.getLsbD 14 = true))

/-! ### Host accesses -/

/-- 43_commands.md R201: a write of a locked register or RAM word while a command is in progress is dropped and sets `WERR`, and
changes nothing else; `STATUS` and `CMD` are never locked. -/
def Obligations.LockedWritesAreDropped : Prop :=
  (∀ (s : State) (off : Nat) (v : Word), s.params.legal = true → s.fsm ≠ .idle → off % 4 = 0 →
    windowLocked s.params off → hostWrite off 4 v s = .next { s with werr := true }) ∧
  (∀ (s : State) (v : Word),
    hostWrite 0x004 4 v s = .next (writeStatus v s) ∧ hostWrite 0x008 4 v s = exec (decodeWord v) s)

/-- 43_commands.md R202, R203, 10_state.md R30, R33 to R39: a configuration register written in `IDLE` reads back the written value
made legal, every other configuration register reads as before, and nothing but the configuration changes; and which field each bit of
a configuration register as read belongs to. -/
def Obligations.ConfigurationWriteReadsBack : Prop :=
  (∀ (s : State) (off : Nat) (v : Word), s.fsm = .idle → off ∈ configOffsets →
    ∃ c : Cfg, hostWrite off 4 v s = .next { s with cfg := c } ∧
      (hostRead off 4 { s with cfg := c }).1 = readBack off v ∧
      ∀ off' ∈ configOffsets, off' ≠ off → (hostRead off' 4 { s with cfg := c }).1 = (hostRead off' 4 s).1) ∧
  ∀ s : State,
    ((hostRead 0x000 4 s).1.getLsbD 0 = true ↔ s.cfg.mode = .single) ∧
    (hostRead 0x00C 4 s).1 = s.cfg.freq ∧
    (hostRead 0x010 4 s).1.toNat = s.cfg.resetUs.toNat ∧
    (hostRead 0x014 4 s).1.toNat = 4 * s.cfg.outBase.toNat ∧
    (hostRead 0x018 4 s).1 = s.cfg.outCap ∧
    ∀ l : LaneId,
      (hostRead (0x020 + 0x10 * l.idx) 4 s).1.toNat = (s.cfg.lane l).count.toNat ∧
      (hostRead (0x024 + 0x10 * l.idx) 4 s).1.extractLsb' 0 5 = (s.cfg.lane l).sh0 ∧
      (hostRead (0x024 + 0x10 * l.idx) 4 s).1.extractLsb' 8 5 = (s.cfg.lane l).sh1 ∧
      (hostRead (0x024 + 0x10 * l.idx) 4 s).1.extractLsb' 16 5 = (s.cfg.lane l).sh2 ∧
      (hostRead (0x024 + 0x10 * l.idx) 4 s).1.extractLsb' 24 5 = (s.cfg.lane l).sh3 ∧
      (hostRead (0x024 + 0x10 * l.idx) 4 s).1.getLsbD 31 = (s.cfg.lane l).white ∧
      (hostRead (0x028 + 0x10 * l.idx) 4 s).1.extractLsb' 0 8 = (s.cfg.lane l).bright ∧
      (hostRead (0x028 + 0x10 * l.idx) 4 s).1.getLsbD 8 = (s.cfg.lane l).gammaEn ∧
      (hostRead (0x028 + 0x10 * l.idx) 4 s).1.getLsbD 9 = (s.cfg.lane l).inv ∧
      (hostRead (0x028 + 0x10 * l.idx) 4 s).1.getLsbD 10 = (s.cfg.lane l).en

/-- 10_state.md R23: a host write to a read-only register has no effect and sets no flag, in any `FSM` state. -/
def Obligations.ReadOnlyWritesAreIgnored : Prop :=
  ∀ (s : State) (off : Nat) (v : Word),
    off ∈ [0x040, 0x044, 0x048, 0x04C, 0x050, 0x054, 0x058, 0x05C, 0x060, 0x064] → hostWrite off 4 v s = .next s

/-- 43_commands.md R204: what a host write to `STATUS` clears, and that it changes nothing else. -/
def Obligations.StatusWriteClearsFlags : Prop :=
  ∀ (s : State) (v : Word), ∃ t, hostWrite 0x004 4 v s = .next t ∧
    t = { s with err := t.err, done := t.done, werr := t.werr, buserr := t.buserr } ∧
    (v.getLsbD 12 = true → t.done = false) ∧ (v.getLsbD 12 = false → t.done = s.done) ∧
    (v.getLsbD 13 = true → t.werr = false) ∧ (v.getLsbD 13 = false → t.werr = s.werr) ∧
    (v.getLsbD 14 = true → t.buserr = false) ∧ (v.getLsbD 14 = false → t.buserr = s.buserr) ∧
    (v.getLsbD 31 = true → t.err = .none) ∧ (v.getLsbD 31 = false → t.err = s.err)

/-- 10_state.md R31, R56, 60_exceptions.md R222: the bits of `STATUS` as a host reads it. -/
def Obligations.StatusReadsItsFields : Prop :=
  ∀ s : State, ∃ w : Word, hostRead 0x004 4 s = (w, s) ∧
    (w.getLsbD 0 = true ↔ s.fsm = .busy) ∧
    (w.getLsbD 1 = true ↔ s.fsm = .pending) ∧
    (w.getLsbD 2 = true ↔ s.waitRemain ≠ 0) ∧
    (w.getLsbD 3 = true ↔ FreqLegal s.cfg ∧ CapacityHolds s.params s.cfg) ∧
    ((s.err = .none → w.extractLsb' 8 4 = 0) ∧ (s.err = .outOfMemory → w.extractLsb' 8 4 = 1) ∧
      (s.err = .illegalFreq → w.extractLsb' 8 4 = 2) ∧ (s.err = .cmdBusy → w.extractLsb' 8 4 = 3) ∧
      (s.err = .badCmd → w.extractLsb' 8 4 = 4) ∧ (s.err = .busFault → w.extractLsb' 8 4 = 5)) ∧
    w.getLsbD 12 = s.done ∧ w.getLsbD 13 = s.werr ∧ w.getLsbD 14 = s.buserr ∧
    (∀ k, (4 ≤ k ∧ k ≤ 7) ∨ 15 ≤ k → w.getLsbD k = false)

/-- 43_commands.md R205: an access of another width, a misaligned one, or one to an unmapped offset reads 0, stores nothing, and sets
`BUSERR` and nothing else. -/
def Obligations.UnsupportedAccessSetsBuserr : Prop :=
  ∀ (s : State) (off width : Nat) (v : Word), s.params.legal = true →
    width ≠ 4 ∨ off % 4 ≠ 0 ∨ ¬windowMapped s.params off →
    hostRead off width s = (0, { s with buserr := true }) ∧
    hostWrite off width v s = .next { s with buserr := true }

/-- 43_commands.md R203, 20_memory.md R79: a supported read changes no state, in any `FSM` state, and a read of `CMD` returns 0. -/
def Obligations.SupportedReadsChangeNothing : Prop :=
  (∀ (s : State) (off : Nat), s.params.legal = true → off % 4 = 0 → windowMapped s.params off →
    (hostRead off 4 s).2 = s) ∧
  ∀ s : State, (hostRead 0x008 4 s).1 = 0

/-- 43_commands.md R206: the host's reads, in every `FSM` state, and writes, unless locked, of the pixel and gamma RAMs, each entry and
no other. -/
def Obligations.RamAccess : Prop :=
  ∀ (s : State) (l : LaneId), s.params.legal = true →
    (∀ i, i < s.params.pixCap → hostRead (0x10000 + 0x10000 * l.idx + 4 * i) 4 s = (s.pix l i, s)) ∧
    (∀ i v, i < s.params.pixCap → s.fsm = .idle →
      ∃ t, hostWrite (0x10000 + 0x10000 * l.idx + 4 * i) 4 v s = .next t ∧
        t = { s with pix0 := t.pix0, pix1 := t.pix1 } ∧
        t.pix l i = v ∧ ∀ l' i', (l' ≠ l ∨ i' ≠ i) → t.pix l' i' = s.pix l' i') ∧
    (∀ i v, i < s.params.pixCap → s.fsm ≠ .idle →
      hostWrite (0x10000 + 0x10000 * l.idx + 4 * i) 4 v s = .next { s with werr := true }) ∧
    (∀ k, k < 64 → ∃ w, hostRead (0x400 + 0x100 * l.idx + 4 * k) 4 s = (w, s) ∧
      ∀ b, b < 4 → w.extractLsb' (8 * b) 8 = s.gamma l (4 * k + b)) ∧
    (∀ k v, k < 64 → s.fsm = .idle →
      ∃ t, hostWrite (0x400 + 0x100 * l.idx + 4 * k) 4 v s = .next t ∧
        t = { s with gamma0 := t.gamma0, gamma1 := t.gamma1 } ∧
        (∀ b, b < 4 → t.gamma l (4 * k + b) = v.extractLsb' (8 * b) 8) ∧
        ∀ l' c, (l' ≠ l ∨ c / 4 ≠ k) → t.gamma l' c = s.gamma l' c) ∧
    (∀ k v, k < 64 → s.fsm ≠ .idle →
      hostWrite (0x400 + 0x100 * l.idx + 4 * k) 4 v s = .next { s with werr := true })

/-- 10_state.md R40 to R45: the derived registers read their defining values exactly, which fit in 32 bits, and 0 when `FREQ` is
illegal. 41_symbol_packing.md R152 to R156: `NMAX` is the largest `COUNT` of an active lane, or 0; `DATA_WORDS` is `3 · NMAX`;
`LANE_WORDS` is `DATA_WORDS + RESET_WORDS` with a legal `FREQ`, else 0; `BUF_WORDS` is `LANE_WORDS`, twice it in DUAL mode; and
`XFER_BYTES` is four times that. -/
def Obligations.DerivedRegistersAreExact : Prop :=
  ∀ s : State, s.params.legal = true →
    (hostRead 0x040 4 s).1.toNat = clkDiv s.params s.cfg ∧
    (hostRead 0x044 4 s).1.toNat = resetBits s.params s.cfg ∧
    (hostRead 0x048 4 s).1.toNat = laneWords s.params s.cfg ∧
    (hostRead 0x04C 4 s).1.toNat = bufWords s.params s.cfg ∧
    (hostRead 0x050 4 s).1.toNat = xferBytes s.params s.cfg ∧
    (hostRead 0x054 4 s).1.toNat = waitUs s.params s.cfg ∧
    (¬FreqLegal s.cfg → ∀ off ∈ [0x040, 0x044, 0x048, 0x04C, 0x050, 0x054], (hostRead off 4 s).1 = 0) ∧
    (∀ l, s.cfg.active l = true → (s.cfg.lane l).count.toNat ≤ s.cfg.nmax) ∧
    (s.cfg.nmax = 0 ∨ ∃ l, s.cfg.active l = true ∧ (s.cfg.lane l).count.toNat = s.cfg.nmax) ∧
    s.cfg.dataWords = 3 * s.cfg.nmax ∧
    (FreqLegal s.cfg → laneWords s.params s.cfg = s.cfg.dataWords + resetWords s.params s.cfg) ∧
    (¬FreqLegal s.cfg → laneWords s.params s.cfg = 0) ∧
    (s.cfg.mode = .dual → bufWords s.params s.cfg = 2 * laneWords s.params s.cfg) ∧
    (s.cfg.mode = .single → bufWords s.params s.cfg = laneWords s.params s.cfg) ∧
    xferBytes s.params s.cfg = 4 * bufWords s.params s.cfg

/-- 10_state.md R46 to R49: the timer and parameter registers. The clause on `PARAM_OSC_HZ` is for the values that fit its 32 bits
(log entry 4). -/
def Obligations.TimerAndParameterRegisters : Prop :=
  ∀ s : State, s.params.legal = true →
    (hostRead 0x058 4 s).1 = s.waitRemain ∧ (hostRead 0x05C 4 s).1 = s.armWaitUs ∧
    (s.params.oscHz < 2 ^ 32 → (hostRead 0x060 4 s).1.toNat = s.params.oscHz) ∧
    (hostRead 0x064 4 s).1.toNat = s.params.pixCap

/-! ### The pixel pipeline -/

/-- 40_pixel_pipeline.md R127: `extract(p, s)`. -/
def Obligations.ExtractTakesTheByteAtTheShift : Prop :=
  ∀ (p : Word) (sh : BitVec 5),
    (extractByte p sh).toNat = p.toNat / 2 ^ sh.toNat % 256 ∧
    ∀ k, k < 8 → (extractByte p sh).getLsbD k = (decide (sh.toNat + k < 32) && p.getLsbD (sh.toNat + k))

/-- 40_pixel_pipeline.md R124: the brightness scale is exact and truncates, and its corner cases. -/
def Obligations.BrightnessScaleIsExact : Prop :=
  ∀ (s : State) (l : LaneId) (g : Byte),
    (brightOf s l g).toNat = g.toNat * (s.cfg.lane l).bright.toNat / 255 ∧
    (brightOf s l g).toNat ≤ g.toNat ∧
    ((s.cfg.lane l).bright = 255 → brightOf s l g = g) ∧
    ((s.cfg.lane l).bright = 0 → brightOf s l g = 0) ∧
    (g = 255 → brightOf s l g = (s.cfg.lane l).bright)

/-- 40_pixel_pipeline.md R120, R122, R125, R128: an ENCODE colour byte is the layout's raw byte, through the gamma RAM if enabled,
then scaled. Transmit slots 0, 1, 2, 3 use `SH0`, `SH1`, `SH2`, `SH3`, that is bits 4:0, 12:8, 20:16, 28:24 of `Lx_LAYOUT` as read
(10_state.md R38). -/
def Obligations.EncodeByteIsGammaThenBrightness : Prop :=
  ∀ (s : State) (l : LaneId) (i j : Nat) (raw : Byte), j < 4 →
    raw.toNat =
      (s.pix l i).toNat / 2 ^ ((hostRead (0x024 + 0x10 * l.idx) 4 s).1.extractLsb' (8 * j) 5).toNat % 256 →
    ((s.cfg.lane l).gammaEn = true →
      (colourByte s .encode l i j).toNat = (s.gamma l raw.toNat).toNat * (s.cfg.lane l).bright.toNat / 255) ∧
    ((s.cfg.lane l).gammaEn = false →
      (colourByte s .encode l i j).toNat = raw.toNat * (s.cfg.lane l).bright.toNat / 255)

/-- 40_pixel_pipeline.md R126: under BLANK every colour byte is 0; the pixel RAMs, the gamma RAMs and `BRIGHT` are not read: two states
that agree on the rest of the configuration write the same words; as many bytes are sent as under ENCODE; and every symbol of an
active lane is `100`. -/
def Obligations.BlankReadsNoColour : Prop :=
  (∀ (s : State) (l : LaneId) (i j : Nat), colourByte s .blank l i j = 0) ∧
  (∀ (s : State) (l : LaneId) (i : Nat), (ledBytes s .blank l i).length = (ledBytes s .encode l i).length ∧
    (slotStream s .blank l).length = (slotStream s .encode l).length) ∧
  (∀ (s t : State) (c : Nat),
    { t.cfg with
      lane0 := { t.cfg.lane0 with bright := s.cfg.lane0.bright }
      lane1 := { t.cfg.lane1 with bright := s.cfg.lane1.bright } } = s.cfg →
    outWord t .blank c = outWord s .blank c) ∧
  ∀ (s : State) (l : LaneId), s.cfg.active l = true →
    slotStream s .blank l =
      (List.replicate ((s.cfg.lane l).count.toNat * (s.cfg.lane l).cpp * 8) [true, false, false]).flatten

/-! ### Symbols, packing and sizes -/

/-- 41_symbol_packing.md R146: the length of a lane's stream. R150, R151: a lane is active exactly when it is a lane of the output, both
in DUAL mode and lane 0 alone in SINGLE, its `EN` is 1 and its `COUNT` is not 0. 40_pixel_pipeline.md R121: `cpp` is 4 with `WHITE`,
else 3. -/
def Obligations.StreamLength : Prop :=
  ∀ (s : State) (op : CurOp) (l : LaneId),
    (s.cfg.mode = .dual → s.cfg.nl = 2) ∧
    (s.cfg.mode = .single → s.cfg.nl = 1) ∧
    (s.cfg.active l = true ↔
      (s.cfg.mode = .dual ∨ l = .l0) ∧ (s.cfg.lane l).en = true ∧ 0 < (s.cfg.lane l).count.toNat) ∧
    ((s.cfg.lane l).white = true → (s.cfg.lane l).cpp = 4) ∧
    ((s.cfg.lane l).white = false → (s.cfg.lane l).cpp = 3) ∧
    (s.cfg.active l = true →
      (slotStream s op l).length = (s.cfg.lane l).count.toNat * (s.cfg.lane l).cpp * 24) ∧
    (s.cfg.active l = false → (slotStream s op l).length = 0)

/-- 41_symbol_packing.md R142 to R145: slot `n` of an active lane's stream straight from its place: 1, the data bit, 0, the bits of a
byte from 7 down, the bytes of an LED in transmit order, the LEDs in increasing index. So a stream's middle slots give its
colour bytes back. -/
def Obligations.StreamSlotsFromColourBytes : Prop :=
  ∀ (s : State) (op : CurOp) (l : LaneId) (i j k : Nat), s.cfg.active l = true →
    i < (s.cfg.lane l).count.toNat → j < (s.cfg.lane l).cpp → k < 8 →
    slotAt (slotStream s op l) (24 * ((s.cfg.lane l).cpp * i + j) + 3 * k) = true ∧
    slotAt (slotStream s op l) (24 * ((s.cfg.lane l).cpp * i + j) + 3 * k + 1) = (colourByte s op l i j).getLsbD (7 - k) ∧
    slotAt (slotStream s op l) (24 * ((s.cfg.lane l).cpp * i + j) + 3 * k + 2) = false

/-- 41_symbol_packing.md R147: slots `32w` to `32w + 31` are lane word `w` from bit 31 down, and a word wholly beyond the stream
is 0. -/
def Obligations.LaneWordPacksFirstSlotHighest : Prop :=
  ∀ (str : List Bool) (w : Nat),
    (∀ k, k < 32 → (laneWord str w).getLsbD (31 - k) = str.getD (32 * w + k) false) ∧
    (str.length ≤ 32 * w → laneWord str w = 0)

/-- 41_symbol_packing.md R149, R150, R159: which lane's word each output word is, and that an inverted lane's word is complemented, idle
words and those of an inactive lane too. -/
def Obligations.OutputWordsInterleaveLanes : Prop :=
  ∀ (s : State) (op : CurOp) (w k : Nat), k < 32 →
    (s.cfg.mode = .dual →
      (outWord s op (2 * w)).getLsbD k = xor s.cfg.lane0.inv ((laneWord (slotStream s op .l0) w).getLsbD k) ∧
      (outWord s op (2 * w + 1)).getLsbD k = xor s.cfg.lane1.inv ((laneWord (slotStream s op .l1) w).getLsbD k)) ∧
    (s.cfg.mode = .single →
      (outWord s op w).getLsbD k = xor s.cfg.lane0.inv ((laneWord (slotStream s op .l0) w).getLsbD k)) ∧
    (∀ l, s.cfg.active l = false → (laneWord (slotStream s op l) w).getLsbD k = false)

/-- 20_memory.md R77, 41_symbol_packing.md R153, R154, 42_symbol_timer.md R176: a lane's stream, whatever its layout, and the whole
reset period after it fit in the lane's words. -/
def Obligations.LaneHoldsStreamAndResetPeriod : Prop :=
  ∀ (s : State) (op : CurOp) (l : LaneId), FreqLegal s.cfg →
    s.cfg.dataWords = 3 * s.cfg.nmax ∧
    (slotStream s op l).length ≤ 32 * s.cfg.dataWords ∧
    (slotStream s op l).length + resetBits s.params s.cfg ≤ 32 * laneWords s.params s.cfg

/-- 41_symbol_packing.md R158, its properties, and 42_symbol_timer.md R178: `BUF_WORDS` and `XFER_BYTES`, and with `LANE_WORDS` also
`WAIT_US`, never decrease when a lane's `COUNT` grows. -/
def Obligations.SizesGrowWithLedCount : Prop :=
  ∀ (p : Params) (c : Cfg) (l : LaneId) (n : BitVec 16), (c.lane l).count.toNat ≤ n.toNat →
    bufWords p c ≤ bufWords p (c.setLane l { c.lane l with count := n }) ∧
    xferBytes p c ≤ xferBytes p (c.setLane l { c.lane l with count := n }) ∧
    waitUs p c ≤ waitUs p (c.setLane l { c.lane l with count := n })

/-! ### The symbol timer -/

/-- 42_symbol_timer.md R172, R173: the divider's range, and that the data-bit rate sent is never below `FREQ`, and equal to it exactly
when `3 · FREQ` divides `OSC_HZ`. -/
def Obligations.DividerRangeAndRate : Prop :=
  ∀ (p : Params) (c : Cfg), p.legal = true →
    (¬FreqLegal c → clkDiv p c = 0) ∧
    (FreqLegal c →
      clkDiv p c = p.oscHz / (3 * c.freq.toNat) ∧ 1 ≤ clkDiv p c ∧ clkDiv p c ≤ 4095 ∧
      3 * clkDiv p c * c.freq.toNat ≤ p.oscHz ∧
      (3 * clkDiv p c * c.freq.toNat = p.oscHz ↔ 3 * c.freq.toNat ∣ p.oscHz))

/-- 42_symbol_timer.md R175: with a legal `FREQ`, `RESET_BITS` is the least number of slots that last `RESET_US` microseconds at the slot
rate sent, and fits 19 bits; else it is 0. R176: `RESET_WORDS` is the least number of words that hold them, and at least 1. R177: the
padding lasts at least `RESET_US`, itself at least 300 (so at least 300 microseconds), and has at least
`RESET_US · 3 · FREQ / 1000000` slots. -/
def Obligations.PaddingMeetsBothBounds : Prop :=
  ∀ (p : Params) (c : Cfg), p.legal = true →
    (¬FreqLegal c → resetBits p c = 0) ∧
    (∀ n, resetWords p c ≤ n ↔ resetBits p c ≤ 32 * n) ∧
    (FreqLegal c →
      c.resetUs.toNat * p.oscHz < 2 ^ 49 ∧ resetBits p c < 2 ^ 19 ∧
      ∀ n, resetBits p c ≤ n ↔ c.resetUs.toNat * p.oscHz ≤ n * (clkDiv p c * 1000000)) ∧
    (FreqLegal c → 300 ≤ c.resetUs.toNat →
      1 ≤ resetWords p c ∧
      c.resetUs.toNat * p.oscHz ≤ resetBits p c * clkDiv p c * 1000000 ∧
      resetBits p c * clkDiv p c ≤ 32 * resetWords p c * clkDiv p c ∧
      300 * p.oscHz ≤ 32 * resetWords p c * clkDiv p c * 1000000 ∧
      c.resetUs.toNat * 3 * c.freq.toNat ≤ resetBits p c * 1000000)

/-- 42_symbol_timer.md R178, R179: `WAIT_US` is the least whole number of microseconds in which one lane's words can be shifted out at the
slot rate sent, and is at least `RESET_US`; with an illegal frequency it is 0. -/
def Obligations.WaitCoversTheTransfer : Prop :=
  ∀ (p : Params) (c : Cfg), p.legal = true →
    (FreqLegal c →
      (∀ n, waitUs p c ≤ n ↔ laneWords p c * 32 * clkDiv p c * 1000000 ≤ n * p.oscHz) ∧
      c.resetUs.toNat ≤ waitUs p c) ∧
    (¬FreqLegal c → waitUs p c = 0)

/-! ### The encoder engine -/

/-- 43_commands.md R197, R199, R200: the word step, by the memory's answer. Acknowledged: the four bytes at `OUT_BASE + 4·CURSOR` hold
`out_word(CUR_OP, CURSOR)`, the cursor moves on. Refused: `BUS_FAULT`, `IDLE`, `DONE` and `ARM_WAIT_US` keep their values. Not
answered: the engine stays where it is. Every other byte reads as before and nothing else changes. That a refused write leaves every
byte outside its word as before, and uses up one free value for the word, is the model's choice (log entry 10); that a write not
answered is held as in flight is its reading of R76 and R200 (log entry 9). -/
def Obligations.WordStepByAnswer : Prop :=
  ∀ s : State, s.fsm = .busy → s.cursor < bufWords s.params s.cfg →
    (s.nextMove = .engine .ok →
      ∃ m, step s = .next { s.popMove with mem := m, cursor := s.cursor + 1, inFlight := false } ∧
        (∀ b, b < 4 → m.read ((s.cfg.outAddr s.cursor).toNat + b) =
          some ((outWord s s.curOp s.cursor).extractLsb' (8 * b) 8)) ∧
        ∀ a, ¬inWord (s.cfg.outAddr s.cursor) a → m.read a = s.mem.read a) ∧
    (s.nextMove = .engine .error →
      ∃ m, step s = .next { s.popMove with
          mem := m, fsm := .idle, err := .busFault, inFlight := false, freeIx := s.popMove.freeIx + 1 } ∧
        ∀ a, ¬inWord (s.cfg.outAddr s.cursor) a → m.read a = s.mem.read a) ∧
    (s.nextMove = .engine .noAnswer → step s = .next { s.popMove with inFlight := true })

/-- 43_commands.md R196, R198: the engine's other steps, whatever the memory would answer: a held command starts when the wait is over
and not before; a command whose words are all written completes, sets `DONE` and latches `WAIT_US`; in `IDLE` the engine does
nothing; and an accepted command has at least one word to write. -/
def Obligations.EngineStartsAndCompletes : Prop :=
  (∀ s : State, Inv s → s.fsm ≠ .idle → 1 ≤ bufWords s.params s.cfg) ∧
  ∀ (s : State) (a : MemAnswer), s.nextMove = .engine a →
    (s.fsm = .idle → step s = .next s.popMove) ∧
    (s.fsm = .pending → s.waitRemain = 0 → step s = .next { s.popMove with fsm := .busy, cursor := 0 }) ∧
    (s.fsm = .pending → s.waitRemain ≠ 0 → step s = .next s.popMove) ∧
    (s.fsm = .busy → bufWords s.params s.cfg ≤ s.cursor →
      step s = .next { s.popMove with
        fsm := .idle, done := true, armWaitUs := BitVec.ofNat 32 (waitUs s.params s.cfg) })

/-- 20_memory.md R77, R85: a byte of the output bus space changes only by a write from outside the block, or inside the word at
`OUT_BASE + 4·CURSOR` while a command runs, and that word lies inside the buffer. That a refused write changes no byte outside its word
(log entry 10), and that a write in flight at a reset lands in the reset's own step or never (log entry 11), are the model's choices. -/
def Obligations.BlockWritesOnlyItsBuffer : Prop :=
  ∀ (s t : State) (a : Nat), Inv s → step s = .next t → t.mem.read a ≠ s.mem.read a →
    (∃ addr v, s.nextMove = .outsideWrite addr v ∧ addr.toNat = a ∧ t.mem.read a = some v) ∨
    (((∃ ans, s.nextMove = .engine ans) ∨ s.nextMove = .reset) ∧
      s.fsm = .busy ∧ s.cursor < bufWords s.params s.cfg ∧ inWord (s.cfg.outAddr s.cursor) a ∧
      4 * s.cfg.outBase.toNat ≤ a ∧ a < 4 * s.cfg.outBase.toNat + 4 * bufWords s.params s.cfg ∧
      4 * s.cfg.outBase.toNat + 4 * bufWords s.params s.cfg ≤ 4 * s.cfg.outBase.toNat + 4 * s.cfg.outCap.toNat)

/-- 20_memory.md R80, 43_commands.md R200: while a command runs the memory holds the new value of every word before the cursor; every
step but a write from outside the block keeps that true. -/
def Obligations.StepKeepsWrittenWords : Prop :=
  ∀ s t : State, Inv s → BufferHolds s → (∀ a v, s.nextMove ≠ .outsideWrite a v) → step s = .next t → BufferHolds t

/-- 43_commands.md R200: when a command completes, every output word of its buffer holds `out_word(CUR_OP, c)`. -/
def Obligations.CompletionLeavesWholeBuffer : Prop :=
  ∀ (s t : State) (a : MemAnswer), Inv s → BufferHolds s → s.nextMove = .engine a → step s = .next t →
    s.fsm = .busy → bufWords s.params s.cfg ≤ s.cursor →
    t.fsm = .idle ∧ t.done = true ∧ t.armWaitUs.toNat = waitUs s.params s.cfg ∧
    ∀ c, c < bufWords s.params s.cfg → t.busWord (4 * (s.cfg.outBase.toNat + c)) = outWord s s.curOp c

/-- 43_commands.md R200: a command in `BUSY` whose writes are all acknowledged completes after one engine step a word left and one more,
leaves every word from its cursor on with its value, and every byte outside those words as it was. -/
def Obligations.AcknowledgedCommandCompletes : Prop :=
  ∀ (s : State) (n : Nat) (rest : List Move), Inv s → s.fsm = .busy →
    s.cursor + n = bufWords s.params s.cfg → s.sched = List.replicate (n + 1) (.engine .ok) ++ rest →
    ∃ t, core.run (n + 1) s = .next t ∧ t.fsm = .idle ∧ t.done = true ∧ t.err = s.err ∧ t.sched = rest ∧
      t.armWaitUs.toNat = waitUs s.params s.cfg ∧ t.cfg = s.cfg ∧ t.waitRemain = s.waitRemain ∧
      (∀ c, s.cursor ≤ c → c < bufWords s.params s.cfg →
        t.busWord (4 * (s.cfg.outBase.toNat + c)) = outWord s s.curOp c) ∧
      ∀ a, (∀ c, s.cursor ≤ c → c < bufWords s.params s.cfg → ¬inWord (s.cfg.outAddr c) a) → t.mem.read a = s.mem.read a

/-- 70_reset_and_hazards.md R259, 42_symbol_timer.md R180: a held command starts only after as many ticks as the wait timer shows,
whatever the other agents do meanwhile, unless the block is reset. -/
def Obligations.HeldCommandWaitsOutTheTimer : Prop :=
  ∀ (s t : State) (k : Nat), s.fsm = .pending → core.run k s = .next t → Move.reset ∉ movesOf k s → t.fsm ≠ .pending →
    s.waitRemain.toNat ≤ (movesOf k s).count .tick

/-! ### Reset and observation -/

/-- 70_reset_and_hazards.md R240, R241, R242: a reset puts every register and the hidden state at the reset value, whatever went on; no
RAM entry stays listed as written; the output bus space keeps every byte, but for the word in flight, which lands whole or not at all; the
parameters and the agents outside the block are not touched. The model's choices: `curOp` and the draws (log entries 5, 6 and 13), and
that the write in flight is settled in the reset's own step (log entry 11); its reading: that the host, what was observed and the moves
fixed are not touched (log entry 14). -/
def Obligations.ResetStep : Prop :=
  ∀ s : State, s.nextMove = .reset → ∃ m f,
    step s = .next { State.reset with
      params := s.params, mem := m, host := s.host, seen := s.seen, sched := s.popMove.sched, freeIx := f,
      draw := s.draw + 1, curOp := Config.curOpDraw (s.draw + 1) } ∧
    (s.inFlight = false → m = s.mem) ∧
    (s.inFlight = true → m = s.mem ∨
      ((∀ b, b < 4 → m.read ((s.cfg.outAddr s.cursor).toNat + b) =
          some ((outWord s s.curOp s.cursor).extractLsb' (8 * b) 8)) ∧
        ∀ a, ¬inWord (s.cfg.outAddr s.cursor) a → m.read a = s.mem.read a))

/-- 70_reset_and_hazards.md R240, its table, and 10_state.md section 3: what each register reads right after reset. -/
def Obligations.RegistersAfterReset : Prop :=
  (∀ off ∈ [0x000, 0x004, 0x008, 0x00C, 0x014, 0x018, 0x020, 0x030, 0x040, 0x044, 0x048, 0x04C, 0x050, 0x054, 0x058, 0x05C],
    hostRead off 4 State.reset = (0x00000000#32, State.reset)) ∧
  hostRead 0x010 4 State.reset = (300#32, State.reset) ∧
  (∀ off ∈ [0x024, 0x034], hostRead off 4 State.reset = (0x00000810#32, State.reset)) ∧
  (∀ off ∈ [0x028, 0x038], hostRead off 4 State.reset = (0x000000FF#32, State.reset)) ∧
  hostRead 0x064 4 State.reset = (BitVec.ofNat 32 State.reset.params.pixCap, State.reset)

/-- 20_memory.md R78, R80: an outside observer sees the memory's word, or for the one word in flight that or the whole word being written;
a byte it reads is that word's byte (R74); and it changes nothing of the block. -/
def Obligations.ObserverSeesOldOrNewWord : Prop :=
  (∀ (s : State) (k : BitVec 30), s.nextMove = .observeWord k →
    ∃ w f, step s = .next { s.popMove with seen := w, freeIx := f } ∧
      (w = s.busWord (4 * k.toNat) ∨
        (s.inFlight = true ∧ (s.cfg.outAddr s.cursor).toNat = 4 * k.toNat ∧ w = outWord s s.curOp s.cursor))) ∧
  (∀ (s : State) (a : Word), s.nextMove = .observeByte a →
    ∃ w f, step s = .next { s.popMove with seen := w, freeIx := f } ∧
      (w = 0#24 ++ s.busByte a.toNat ∨
        (s.inFlight = true ∧ inWord (s.cfg.outAddr s.cursor) a.toNat ∧
          w = 0#24 ++ (outWord s s.curOp s.cursor).extractLsb' (8 * (a.toNat % 4)) 8)))

/-- 70_reset_and_hazards.md R253 to R255 with 41_symbol_packing.md R147, R149, R159: if the number of inverting stages on a lane is even
and the serializer keeps the duties, the line carries the lane's symbol stream and then low idle slots, at least the reset period
of them. The serializer's side is the host's duty, as Machine/Line.lean writes it (log entry 26). -/
def Obligations.LineCarriesTheStream : Prop :=
  ∀ (s : State) (op : CurOp) (l : LaneId) (polarity board : Bool), FreqLegal s.cfg → l.idx < s.cfg.nl →
    xor board (xor polarity (s.cfg.lane l).inv) = false →
    ∃ idle, lineLevels polarity board (serialSlots s.cfg.nl (laneWords s.params s.cfg) l (outWord s op)) =
        slotStream s op l ++ List.replicate idle false ∧
      (slotStream s op l).length + idle = 32 * laneWords s.params s.cfg ∧
      resetBits s.params s.cfg ≤ idle

/-- 42_symbol_timer.md R174 with 70_reset_and_hazards.md R253: with an even number of inverting stages a symbol is high, then at the data
bit's level, then low: high for two slot periods for a 1 and for one for a 0. -/
def Obligations.SymbolLevelsOnTheLine : Prop :=
  ∀ b inv polarity board : Bool, xor board (xor polarity inv) = false →
    lineLevels polarity board ((symbolSlots b).map (xor inv)) = [true, b, false] ∧
    symbolHighSlots b = (if b then 2 else 1)

/-! ### The host's program -/

/-- 30_encoding.md R97: what the host's step does with each statement of its program. -/
def Obligations.HostStatements : Prop :=
  ∀ s : State, s.nextMove = .host → s.host.delay = 0 →
    (∀ off n v, s.host.program[s.host.pc]? = some (.wr off n v) →
      step s = hostWrite off n v { s.popMove with host := { s.host with pc := s.host.pc + 1 } }) ∧
    (∀ off n, s.host.program[s.host.pc]? = some (.rd off n) →
      step s = .next { (hostRead off n s.popMove).2 with
        host := { s.host with pc := s.host.pc + 1, readData := (hostRead off n s).1 } }) ∧
    (∀ off m v, s.host.program[s.host.pc]? = some (.poll off m v) →
      step s = .next { (hostRead off 4 s.popMove).2 with
        host :=
          { s.host with
            pc := if (hostRead off 4 s).1 &&& m = v then s.host.pc + 1 else s.host.pc
            readData := (hostRead off 4 s).1 } }) ∧
    (∀ off m v target, s.host.program[s.host.pc]? = some (.bne off m v target) →
      step s = .next { (hostRead off 4 s.popMove).2 with
        host :=
          { s.host with
            pc := if (hostRead off 4 s).1 &&& m = v then s.host.pc + 1 else target
            readData := (hostRead off 4 s).1 } }) ∧
    (∀ us, s.host.program[s.host.pc]? = some (.delay us) →
      step s = .next { s.popMove with host := { s.host with pc := s.host.pc + 1, delay := us } })

/-- 30_encoding.md R98: the pseudo-instructions' expansions into bus writes and reads. -/
def Obligations.PseudoInstructionExpansions : Prop :=
  assemble [⟨none, .nop⟩, ⟨none, .encode⟩, ⟨none, .blank⟩, ⟨none, .armed⟩, ⟨none, .clrErr⟩, ⟨none, .clrFlags⟩, ⟨none, .waitIdle⟩] =
    some [.wr 0x008 4 0x0, .wr 0x008 4 0x1, .wr 0x008 4 0x2, .wr 0x008 4 0x3, .wr 0x004 4 0x80000000, .wr 0x004 4 0x00007000,
      .poll 0x004 0x00000003 0x00000000] ∧
  (∀ (l : LaneId) (count layout ctl : Word),
    assemble [⟨none, .lane l count layout ctl⟩] =
      some [.wr (0x020 + 0x10 * l.idx) 4 count, .wr (0x024 + 0x10 * l.idx) 4 layout, .wr (0x028 + 0x10 * l.idx) 4 ctl]) ∧
  (∀ (l : LaneId) (k : Nat) (e0 e1 e2 e3 : Byte), ∃ w : Word,
    assemble [⟨none, .gammaEntries l k e0 e1 e2 e3⟩] = some [.wr (0x400 + 0x100 * l.idx + 4 * k) 4 w] ∧
      w.toNat = e0.toNat + 2 ^ 8 * e1.toNat + 2 ^ 16 * e2.toNat + 2 ^ 24 * e3.toNat)
end

