-- ==== Sys2Proof/Laws/Bytes.lean ====
section
/-! SUPPORT. A word and its four bytes. -/

namespace Sys2Proof.Machine

theorem wordOfBytes_getLsbD (b0 b1 b2 b3 : Byte) (i : Nat) :
    (wordOfBytes b0 b1 b2 b3).getLsbD i =
      if i < 8 then b0.getLsbD i else if i < 16 then b1.getLsbD (i - 8)
      else if i < 24 then b2.getLsbD (i - 16) else b3.getLsbD (i - 24) := by
  simp only [wordOfBytes, BitVec.getLsbD_append]
  split_ifs <;> first | rfl | omega

theorem wordByte_getLsbD (v : Word) (b i : Nat) :
    (wordByte v b).getLsbD i = (decide (i < 8) && v.getLsbD (8 * b + i)) := by
  simp [wordByte, BitVec.getLsbD_extractLsb']

@[simp] theorem wordByte_wordOfBytes_0 (b0 b1 b2 b3 : Byte) : wordByte (wordOfBytes b0 b1 b2 b3) 0 = b0 := by
  refine BitVec.eq_of_getLsbD_eq fun i hi => ?_
  rw [wordByte_getLsbD, wordOfBytes_getLsbD, if_pos (by omega)]
  simp [hi]

@[simp] theorem wordByte_wordOfBytes_1 (b0 b1 b2 b3 : Byte) : wordByte (wordOfBytes b0 b1 b2 b3) 1 = b1 := by
  refine BitVec.eq_of_getLsbD_eq fun i hi => ?_
  rw [wordByte_getLsbD, wordOfBytes_getLsbD, if_neg (by omega), if_pos (by omega)]
  simp [hi]

@[simp] theorem wordByte_wordOfBytes_2 (b0 b1 b2 b3 : Byte) : wordByte (wordOfBytes b0 b1 b2 b3) 2 = b2 := by
  refine BitVec.eq_of_getLsbD_eq fun i hi => ?_
  rw [wordByte_getLsbD, wordOfBytes_getLsbD, if_neg (by omega), if_neg (by omega), if_pos (by omega)]
  simp [hi]

@[simp] theorem wordByte_wordOfBytes_3 (b0 b1 b2 b3 : Byte) : wordByte (wordOfBytes b0 b1 b2 b3) 3 = b3 := by
  refine BitVec.eq_of_getLsbD_eq fun i hi => ?_
  rw [wordByte_getLsbD, wordOfBytes_getLsbD, if_neg (by omega), if_neg (by omega), if_neg (by omega)]
  simp [hi]

/-- A word is put together again from its bytes. -/
@[simp] theorem wordOfBytes_wordByte (v : Word) :
    wordOfBytes (wordByte v 0) (wordByte v 1) (wordByte v 2) (wordByte v 3) = v := by
  refine BitVec.eq_of_getLsbD_eq fun i hi => ?_
  simp only [wordOfBytes_getLsbD, wordByte_getLsbD]
  split_ifs <;> simp <;> (first | (intro; omega) | skip) <;> grind

end Sys2Proof.Machine
end

