-- ==== Sys2Proof/Laws/Cells.lean ====
section
/-! SUPPORT. Sparse stores: a read after a write, and the canonical form. -/

namespace Sys2Proof.Machine.Cells

/-- A read after a write gives the value written at its index and what was there before at every other. -/
@[simp] theorem get_set {α : Type} (m : List (Nat × α)) (a b : Nat) (v : α) :
    get (set m a v) b = if b = a then some v else get m b := by
  induction m with
  | nil => simp [set, get, eq_comm]
  | cons e rest ih =>
    obtain ⟨k, w⟩ := e
    unfold set
    split_ifs <;> simp_all [get] <;> grind

theorem mem_keys_set {α : Type} (m : List (Nat × α)) (a x : Nat) (v : α) (h : x ∈ (set m a v).map Prod.fst) :
    x = a ∨ x ∈ m.map Prod.fst := by
  induction m with
  | nil => simpa [set] using h
  | cons e rest ih =>
    obtain ⟨k, w⟩ := e
    unfold set at h
    split_ifs at h <;> simp only [List.map_cons, List.mem_cons] at h ⊢ <;> grind

theorem wf_iff {α : Type} (n : Nat) (m : List (Nat × α)) :
    wf n m = true ↔ (m.map Prod.fst).Pairwise (· < ·) ∧ ∀ x ∈ m.map Prod.fst, x < n := by
  simp [wf]

/-- A write inside the bound keeps the canonical form. -/
theorem wf_set {α : Type} {n : Nat} {m : List (Nat × α)} {a : Nat} (v : α) (h : wf n m = true) (ha : a < n) :
    wf n (set m a v) = true := by
  rw [wf_iff] at h ⊢
  refine ⟨?_, fun x hx => (mem_keys_set m a x v hx).elim (fun e => e ▸ ha) (h.2 x)⟩
  replace h := h.1
  induction m with
  | nil => simp [set]
  | cons e rest ih =>
    obtain ⟨k, w⟩ := e
    simp only [List.map_cons, List.pairwise_cons] at h
    unfold set
    split_ifs with h1 h2
    · simp only [List.map_cons, List.pairwise_cons, List.mem_cons]
      exact ⟨fun y hy => hy.elim (fun e => e ▸ h1) (fun hy => h1.trans (h.1 y hy)), h⟩
    · subst h2
      simpa using h
    · simp only [List.map_cons, List.pairwise_cons]
      exact ⟨fun y hy => (mem_keys_set rest a y v hy).elim (fun e => by omega) (h.1 y), ih h.2⟩

theorem wf_nil {α : Type} (n : Nat) : wf n ([] : List (Nat × α)) = true := by simp [wf]

end Sys2Proof.Machine.Cells
end

