-- ==== Sys2Proof/Laws/State.lean ====
section
/-! SUPPORT. What each named update of the state does to each field: one lemma per field and update, so that no later proof unfolds
a record update. -/

namespace Sys2Proof.Machine

@[simp] theorem raiseErr_params (e : Err) (s : State) : (raiseErr e s).params = s.params := rfl
@[simp] theorem raiseErr_cfg (e : Err) (s : State) : (raiseErr e s).cfg = s.cfg := rfl
@[simp] theorem raiseErr_err (e : Err) (s : State) : (raiseErr e s).err = e := rfl
@[simp] theorem raiseErr_done (e : Err) (s : State) : (raiseErr e s).done = s.done := rfl
@[simp] theorem raiseErr_werr (e : Err) (s : State) : (raiseErr e s).werr = s.werr := rfl
@[simp] theorem raiseErr_buserr (e : Err) (s : State) : (raiseErr e s).buserr = s.buserr := rfl
@[simp] theorem raiseErr_waitRemain (e : Err) (s : State) : (raiseErr e s).waitRemain = s.waitRemain := rfl
@[simp] theorem raiseErr_armWaitUs (e : Err) (s : State) : (raiseErr e s).armWaitUs = s.armWaitUs := rfl
@[simp] theorem raiseErr_pix0 (e : Err) (s : State) : (raiseErr e s).pix0 = s.pix0 := rfl
@[simp] theorem raiseErr_pix1 (e : Err) (s : State) : (raiseErr e s).pix1 = s.pix1 := rfl
@[simp] theorem raiseErr_gamma0 (e : Err) (s : State) : (raiseErr e s).gamma0 = s.gamma0 := rfl
@[simp] theorem raiseErr_gamma1 (e : Err) (s : State) : (raiseErr e s).gamma1 = s.gamma1 := rfl
@[simp] theorem raiseErr_draw (e : Err) (s : State) : (raiseErr e s).draw = s.draw := rfl
@[simp] theorem raiseErr_fsm (e : Err) (s : State) : (raiseErr e s).fsm = s.fsm := rfl
@[simp] theorem raiseErr_curOp (e : Err) (s : State) : (raiseErr e s).curOp = s.curOp := rfl
@[simp] theorem raiseErr_cursor (e : Err) (s : State) : (raiseErr e s).cursor = s.cursor := rfl
@[simp] theorem raiseErr_inFlight (e : Err) (s : State) : (raiseErr e s).inFlight = s.inFlight := rfl
@[simp] theorem raiseErr_mem (e : Err) (s : State) : (raiseErr e s).mem = s.mem := rfl
@[simp] theorem raiseErr_host (e : Err) (s : State) : (raiseErr e s).host = s.host := rfl
@[simp] theorem raiseErr_seen (e : Err) (s : State) : (raiseErr e s).seen = s.seen := rfl
@[simp] theorem raiseErr_sched (e : Err) (s : State) : (raiseErr e s).sched = s.sched := rfl
@[simp] theorem raiseErr_freeIx (e : Err) (s : State) : (raiseErr e s).freeIx = s.freeIx := rfl

@[simp] theorem clearErr_params (s : State) : (clearErr s).params = s.params := rfl
@[simp] theorem clearErr_cfg (s : State) : (clearErr s).cfg = s.cfg := rfl
@[simp] theorem clearErr_err (s : State) : (clearErr s).err = .none := rfl
@[simp] theorem clearErr_done (s : State) : (clearErr s).done = s.done := rfl
@[simp] theorem clearErr_werr (s : State) : (clearErr s).werr = s.werr := rfl
@[simp] theorem clearErr_buserr (s : State) : (clearErr s).buserr = s.buserr := rfl
@[simp] theorem clearErr_waitRemain (s : State) : (clearErr s).waitRemain = s.waitRemain := rfl
@[simp] theorem clearErr_armWaitUs (s : State) : (clearErr s).armWaitUs = s.armWaitUs := rfl
@[simp] theorem clearErr_pix0 (s : State) : (clearErr s).pix0 = s.pix0 := rfl
@[simp] theorem clearErr_pix1 (s : State) : (clearErr s).pix1 = s.pix1 := rfl
@[simp] theorem clearErr_gamma0 (s : State) : (clearErr s).gamma0 = s.gamma0 := rfl
@[simp] theorem clearErr_gamma1 (s : State) : (clearErr s).gamma1 = s.gamma1 := rfl
@[simp] theorem clearErr_draw (s : State) : (clearErr s).draw = s.draw := rfl
@[simp] theorem clearErr_fsm (s : State) : (clearErr s).fsm = s.fsm := rfl
@[simp] theorem clearErr_curOp (s : State) : (clearErr s).curOp = s.curOp := rfl
@[simp] theorem clearErr_cursor (s : State) : (clearErr s).cursor = s.cursor := rfl
@[simp] theorem clearErr_inFlight (s : State) : (clearErr s).inFlight = s.inFlight := rfl
@[simp] theorem clearErr_mem (s : State) : (clearErr s).mem = s.mem := rfl
@[simp] theorem clearErr_host (s : State) : (clearErr s).host = s.host := rfl
@[simp] theorem clearErr_seen (s : State) : (clearErr s).seen = s.seen := rfl
@[simp] theorem clearErr_sched (s : State) : (clearErr s).sched = s.sched := rfl
@[simp] theorem clearErr_freeIx (s : State) : (clearErr s).freeIx = s.freeIx := rfl

@[simp] theorem setBuserr_params (s : State) : (setBuserr s).params = s.params := rfl
@[simp] theorem setBuserr_cfg (s : State) : (setBuserr s).cfg = s.cfg := rfl
@[simp] theorem setBuserr_err (s : State) : (setBuserr s).err = s.err := rfl
@[simp] theorem setBuserr_done (s : State) : (setBuserr s).done = s.done := rfl
@[simp] theorem setBuserr_werr (s : State) : (setBuserr s).werr = s.werr := rfl
@[simp] theorem setBuserr_buserr (s : State) : (setBuserr s).buserr = true := rfl
@[simp] theorem setBuserr_waitRemain (s : State) : (setBuserr s).waitRemain = s.waitRemain := rfl
@[simp] theorem setBuserr_armWaitUs (s : State) : (setBuserr s).armWaitUs = s.armWaitUs := rfl
@[simp] theorem setBuserr_pix0 (s : State) : (setBuserr s).pix0 = s.pix0 := rfl
@[simp] theorem setBuserr_pix1 (s : State) : (setBuserr s).pix1 = s.pix1 := rfl
@[simp] theorem setBuserr_gamma0 (s : State) : (setBuserr s).gamma0 = s.gamma0 := rfl
@[simp] theorem setBuserr_gamma1 (s : State) : (setBuserr s).gamma1 = s.gamma1 := rfl
@[simp] theorem setBuserr_draw (s : State) : (setBuserr s).draw = s.draw := rfl
@[simp] theorem setBuserr_fsm (s : State) : (setBuserr s).fsm = s.fsm := rfl
@[simp] theorem setBuserr_curOp (s : State) : (setBuserr s).curOp = s.curOp := rfl
@[simp] theorem setBuserr_cursor (s : State) : (setBuserr s).cursor = s.cursor := rfl
@[simp] theorem setBuserr_inFlight (s : State) : (setBuserr s).inFlight = s.inFlight := rfl
@[simp] theorem setBuserr_mem (s : State) : (setBuserr s).mem = s.mem := rfl
@[simp] theorem setBuserr_host (s : State) : (setBuserr s).host = s.host := rfl
@[simp] theorem setBuserr_seen (s : State) : (setBuserr s).seen = s.seen := rfl
@[simp] theorem setBuserr_sched (s : State) : (setBuserr s).sched = s.sched := rfl
@[simp] theorem setBuserr_freeIx (s : State) : (setBuserr s).freeIx = s.freeIx := rfl

@[simp] theorem setWerr_params (s : State) : (setWerr s).params = s.params := rfl
@[simp] theorem setWerr_cfg (s : State) : (setWerr s).cfg = s.cfg := rfl
@[simp] theorem setWerr_err (s : State) : (setWerr s).err = s.err := rfl
@[simp] theorem setWerr_done (s : State) : (setWerr s).done = s.done := rfl
@[simp] theorem setWerr_werr (s : State) : (setWerr s).werr = true := rfl
@[simp] theorem setWerr_buserr (s : State) : (setWerr s).buserr = s.buserr := rfl
@[simp] theorem setWerr_waitRemain (s : State) : (setWerr s).waitRemain = s.waitRemain := rfl
@[simp] theorem setWerr_armWaitUs (s : State) : (setWerr s).armWaitUs = s.armWaitUs := rfl
@[simp] theorem setWerr_pix0 (s : State) : (setWerr s).pix0 = s.pix0 := rfl
@[simp] theorem setWerr_pix1 (s : State) : (setWerr s).pix1 = s.pix1 := rfl
@[simp] theorem setWerr_gamma0 (s : State) : (setWerr s).gamma0 = s.gamma0 := rfl
@[simp] theorem setWerr_gamma1 (s : State) : (setWerr s).gamma1 = s.gamma1 := rfl
@[simp] theorem setWerr_draw (s : State) : (setWerr s).draw = s.draw := rfl
@[simp] theorem setWerr_fsm (s : State) : (setWerr s).fsm = s.fsm := rfl
@[simp] theorem setWerr_curOp (s : State) : (setWerr s).curOp = s.curOp := rfl
@[simp] theorem setWerr_cursor (s : State) : (setWerr s).cursor = s.cursor := rfl
@[simp] theorem setWerr_inFlight (s : State) : (setWerr s).inFlight = s.inFlight := rfl
@[simp] theorem setWerr_mem (s : State) : (setWerr s).mem = s.mem := rfl
@[simp] theorem setWerr_host (s : State) : (setWerr s).host = s.host := rfl
@[simp] theorem setWerr_seen (s : State) : (setWerr s).seen = s.seen := rfl
@[simp] theorem setWerr_sched (s : State) : (setWerr s).sched = s.sched := rfl
@[simp] theorem setWerr_freeIx (s : State) : (setWerr s).freeIx = s.freeIx := rfl

@[simp] theorem takeBool_params (s : State) : ((takeBool s).2).params = s.params := rfl
@[simp] theorem takeBool_cfg (s : State) : ((takeBool s).2).cfg = s.cfg := rfl
@[simp] theorem takeBool_err (s : State) : ((takeBool s).2).err = s.err := rfl
@[simp] theorem takeBool_done (s : State) : ((takeBool s).2).done = s.done := rfl
@[simp] theorem takeBool_werr (s : State) : ((takeBool s).2).werr = s.werr := rfl
@[simp] theorem takeBool_buserr (s : State) : ((takeBool s).2).buserr = s.buserr := rfl
@[simp] theorem takeBool_waitRemain (s : State) : ((takeBool s).2).waitRemain = s.waitRemain := rfl
@[simp] theorem takeBool_armWaitUs (s : State) : ((takeBool s).2).armWaitUs = s.armWaitUs := rfl
@[simp] theorem takeBool_pix0 (s : State) : ((takeBool s).2).pix0 = s.pix0 := rfl
@[simp] theorem takeBool_pix1 (s : State) : ((takeBool s).2).pix1 = s.pix1 := rfl
@[simp] theorem takeBool_gamma0 (s : State) : ((takeBool s).2).gamma0 = s.gamma0 := rfl
@[simp] theorem takeBool_gamma1 (s : State) : ((takeBool s).2).gamma1 = s.gamma1 := rfl
@[simp] theorem takeBool_draw (s : State) : ((takeBool s).2).draw = s.draw := rfl
@[simp] theorem takeBool_fsm (s : State) : ((takeBool s).2).fsm = s.fsm := rfl
@[simp] theorem takeBool_curOp (s : State) : ((takeBool s).2).curOp = s.curOp := rfl
@[simp] theorem takeBool_cursor (s : State) : ((takeBool s).2).cursor = s.cursor := rfl
@[simp] theorem takeBool_inFlight (s : State) : ((takeBool s).2).inFlight = s.inFlight := rfl
@[simp] theorem takeBool_mem (s : State) : ((takeBool s).2).mem = s.mem := rfl
@[simp] theorem takeBool_host (s : State) : ((takeBool s).2).host = s.host := rfl
@[simp] theorem takeBool_seen (s : State) : ((takeBool s).2).seen = s.seen := rfl
@[simp] theorem takeBool_sched (s : State) : ((takeBool s).2).sched = s.sched := rfl
@[simp] theorem takeBool_freeIx (s : State) : ((takeBool s).2).freeIx = s.freeIx + 1 := rfl

@[simp] theorem takeWord_params (s : State) : ((takeWord s).2).params = s.params := rfl
@[simp] theorem takeWord_cfg (s : State) : ((takeWord s).2).cfg = s.cfg := rfl
@[simp] theorem takeWord_err (s : State) : ((takeWord s).2).err = s.err := rfl
@[simp] theorem takeWord_done (s : State) : ((takeWord s).2).done = s.done := rfl
@[simp] theorem takeWord_werr (s : State) : ((takeWord s).2).werr = s.werr := rfl
@[simp] theorem takeWord_buserr (s : State) : ((takeWord s).2).buserr = s.buserr := rfl
@[simp] theorem takeWord_waitRemain (s : State) : ((takeWord s).2).waitRemain = s.waitRemain := rfl
@[simp] theorem takeWord_armWaitUs (s : State) : ((takeWord s).2).armWaitUs = s.armWaitUs := rfl
@[simp] theorem takeWord_pix0 (s : State) : ((takeWord s).2).pix0 = s.pix0 := rfl
@[simp] theorem takeWord_pix1 (s : State) : ((takeWord s).2).pix1 = s.pix1 := rfl
@[simp] theorem takeWord_gamma0 (s : State) : ((takeWord s).2).gamma0 = s.gamma0 := rfl
@[simp] theorem takeWord_gamma1 (s : State) : ((takeWord s).2).gamma1 = s.gamma1 := rfl
@[simp] theorem takeWord_draw (s : State) : ((takeWord s).2).draw = s.draw := rfl
@[simp] theorem takeWord_fsm (s : State) : ((takeWord s).2).fsm = s.fsm := rfl
@[simp] theorem takeWord_curOp (s : State) : ((takeWord s).2).curOp = s.curOp := rfl
@[simp] theorem takeWord_cursor (s : State) : ((takeWord s).2).cursor = s.cursor := rfl
@[simp] theorem takeWord_inFlight (s : State) : ((takeWord s).2).inFlight = s.inFlight := rfl
@[simp] theorem takeWord_mem (s : State) : ((takeWord s).2).mem = s.mem := rfl
@[simp] theorem takeWord_host (s : State) : ((takeWord s).2).host = s.host := rfl
@[simp] theorem takeWord_seen (s : State) : ((takeWord s).2).seen = s.seen := rfl
@[simp] theorem takeWord_sched (s : State) : ((takeWord s).2).sched = s.sched := rfl
@[simp] theorem takeWord_freeIx (s : State) : ((takeWord s).2).freeIx = s.freeIx + 1 := rfl

@[simp] theorem storeWord_params (a v : Word) (s : State) : (storeWord a v s).params = s.params := rfl
@[simp] theorem storeWord_cfg (a v : Word) (s : State) : (storeWord a v s).cfg = s.cfg := rfl
@[simp] theorem storeWord_err (a v : Word) (s : State) : (storeWord a v s).err = s.err := rfl
@[simp] theorem storeWord_done (a v : Word) (s : State) : (storeWord a v s).done = s.done := rfl
@[simp] theorem storeWord_werr (a v : Word) (s : State) : (storeWord a v s).werr = s.werr := rfl
@[simp] theorem storeWord_buserr (a v : Word) (s : State) : (storeWord a v s).buserr = s.buserr := rfl
@[simp] theorem storeWord_waitRemain (a v : Word) (s : State) : (storeWord a v s).waitRemain = s.waitRemain := rfl
@[simp] theorem storeWord_armWaitUs (a v : Word) (s : State) : (storeWord a v s).armWaitUs = s.armWaitUs := rfl
@[simp] theorem storeWord_pix0 (a v : Word) (s : State) : (storeWord a v s).pix0 = s.pix0 := rfl
@[simp] theorem storeWord_pix1 (a v : Word) (s : State) : (storeWord a v s).pix1 = s.pix1 := rfl
@[simp] theorem storeWord_gamma0 (a v : Word) (s : State) : (storeWord a v s).gamma0 = s.gamma0 := rfl
@[simp] theorem storeWord_gamma1 (a v : Word) (s : State) : (storeWord a v s).gamma1 = s.gamma1 := rfl
@[simp] theorem storeWord_draw (a v : Word) (s : State) : (storeWord a v s).draw = s.draw := rfl
@[simp] theorem storeWord_fsm (a v : Word) (s : State) : (storeWord a v s).fsm = s.fsm := rfl
@[simp] theorem storeWord_curOp (a v : Word) (s : State) : (storeWord a v s).curOp = s.curOp := rfl
@[simp] theorem storeWord_cursor (a v : Word) (s : State) : (storeWord a v s).cursor = s.cursor := rfl
@[simp] theorem storeWord_inFlight (a v : Word) (s : State) : (storeWord a v s).inFlight = s.inFlight := rfl
@[simp] theorem storeWord_mem (a v : Word) (s : State) : (storeWord a v s).mem = s.mem.writeWord a.toNat v := rfl
@[simp] theorem storeWord_host (a v : Word) (s : State) : (storeWord a v s).host = s.host := rfl
@[simp] theorem storeWord_seen (a v : Word) (s : State) : (storeWord a v s).seen = s.seen := rfl
@[simp] theorem storeWord_sched (a v : Word) (s : State) : (storeWord a v s).sched = s.sched := rfl
@[simp] theorem storeWord_freeIx (a v : Word) (s : State) : (storeWord a v s).freeIx = s.freeIx := rfl

@[simp] theorem outsideWrite_params (a : Word) (v : Byte) (s : State) : (outsideWrite a v s).params = s.params := rfl
@[simp] theorem outsideWrite_cfg (a : Word) (v : Byte) (s : State) : (outsideWrite a v s).cfg = s.cfg := rfl
@[simp] theorem outsideWrite_err (a : Word) (v : Byte) (s : State) : (outsideWrite a v s).err = s.err := rfl
@[simp] theorem outsideWrite_done (a : Word) (v : Byte) (s : State) : (outsideWrite a v s).done = s.done := rfl
@[simp] theorem outsideWrite_werr (a : Word) (v : Byte) (s : State) : (outsideWrite a v s).werr = s.werr := rfl
@[simp] theorem outsideWrite_buserr (a : Word) (v : Byte) (s : State) : (outsideWrite a v s).buserr = s.buserr := rfl
@[simp] theorem outsideWrite_waitRemain (a : Word) (v : Byte) (s : State) : (outsideWrite a v s).waitRemain = s.waitRemain := rfl
@[simp] theorem outsideWrite_armWaitUs (a : Word) (v : Byte) (s : State) : (outsideWrite a v s).armWaitUs = s.armWaitUs := rfl
@[simp] theorem outsideWrite_pix0 (a : Word) (v : Byte) (s : State) : (outsideWrite a v s).pix0 = s.pix0 := rfl
@[simp] theorem outsideWrite_pix1 (a : Word) (v : Byte) (s : State) : (outsideWrite a v s).pix1 = s.pix1 := rfl
@[simp] theorem outsideWrite_gamma0 (a : Word) (v : Byte) (s : State) : (outsideWrite a v s).gamma0 = s.gamma0 := rfl
@[simp] theorem outsideWrite_gamma1 (a : Word) (v : Byte) (s : State) : (outsideWrite a v s).gamma1 = s.gamma1 := rfl
@[simp] theorem outsideWrite_draw (a : Word) (v : Byte) (s : State) : (outsideWrite a v s).draw = s.draw := rfl
@[simp] theorem outsideWrite_fsm (a : Word) (v : Byte) (s : State) : (outsideWrite a v s).fsm = s.fsm := rfl
@[simp] theorem outsideWrite_curOp (a : Word) (v : Byte) (s : State) : (outsideWrite a v s).curOp = s.curOp := rfl
@[simp] theorem outsideWrite_cursor (a : Word) (v : Byte) (s : State) : (outsideWrite a v s).cursor = s.cursor := rfl
@[simp] theorem outsideWrite_inFlight (a : Word) (v : Byte) (s : State) : (outsideWrite a v s).inFlight = s.inFlight := rfl
@[simp] theorem outsideWrite_mem (a : Word) (v : Byte) (s : State) : (outsideWrite a v s).mem = s.mem.write a.toNat v := rfl
@[simp] theorem outsideWrite_host (a : Word) (v : Byte) (s : State) : (outsideWrite a v s).host = s.host := rfl
@[simp] theorem outsideWrite_seen (a : Word) (v : Byte) (s : State) : (outsideWrite a v s).seen = s.seen := rfl
@[simp] theorem outsideWrite_sched (a : Word) (v : Byte) (s : State) : (outsideWrite a v s).sched = s.sched := rfl
@[simp] theorem outsideWrite_freeIx (a : Word) (v : Byte) (s : State) : (outsideWrite a v s).freeIx = s.freeIx := rfl

@[simp] theorem setHostPc_params (pc : Nat) (s : State) : (setHostPc pc s).params = s.params := rfl
@[simp] theorem setHostPc_cfg (pc : Nat) (s : State) : (setHostPc pc s).cfg = s.cfg := rfl
@[simp] theorem setHostPc_err (pc : Nat) (s : State) : (setHostPc pc s).err = s.err := rfl
@[simp] theorem setHostPc_done (pc : Nat) (s : State) : (setHostPc pc s).done = s.done := rfl
@[simp] theorem setHostPc_werr (pc : Nat) (s : State) : (setHostPc pc s).werr = s.werr := rfl
@[simp] theorem setHostPc_buserr (pc : Nat) (s : State) : (setHostPc pc s).buserr = s.buserr := rfl
@[simp] theorem setHostPc_waitRemain (pc : Nat) (s : State) : (setHostPc pc s).waitRemain = s.waitRemain := rfl
@[simp] theorem setHostPc_armWaitUs (pc : Nat) (s : State) : (setHostPc pc s).armWaitUs = s.armWaitUs := rfl
@[simp] theorem setHostPc_pix0 (pc : Nat) (s : State) : (setHostPc pc s).pix0 = s.pix0 := rfl
@[simp] theorem setHostPc_pix1 (pc : Nat) (s : State) : (setHostPc pc s).pix1 = s.pix1 := rfl
@[simp] theorem setHostPc_gamma0 (pc : Nat) (s : State) : (setHostPc pc s).gamma0 = s.gamma0 := rfl
@[simp] theorem setHostPc_gamma1 (pc : Nat) (s : State) : (setHostPc pc s).gamma1 = s.gamma1 := rfl
@[simp] theorem setHostPc_draw (pc : Nat) (s : State) : (setHostPc pc s).draw = s.draw := rfl
@[simp] theorem setHostPc_fsm (pc : Nat) (s : State) : (setHostPc pc s).fsm = s.fsm := rfl
@[simp] theorem setHostPc_curOp (pc : Nat) (s : State) : (setHostPc pc s).curOp = s.curOp := rfl
@[simp] theorem setHostPc_cursor (pc : Nat) (s : State) : (setHostPc pc s).cursor = s.cursor := rfl
@[simp] theorem setHostPc_inFlight (pc : Nat) (s : State) : (setHostPc pc s).inFlight = s.inFlight := rfl
@[simp] theorem setHostPc_mem (pc : Nat) (s : State) : (setHostPc pc s).mem = s.mem := rfl
@[simp] theorem setHostPc_host (pc : Nat) (s : State) : (setHostPc pc s).host = { s.host with pc := pc } := rfl
@[simp] theorem setHostPc_seen (pc : Nat) (s : State) : (setHostPc pc s).seen = s.seen := rfl
@[simp] theorem setHostPc_sched (pc : Nat) (s : State) : (setHostPc pc s).sched = s.sched := rfl
@[simp] theorem setHostPc_freeIx (pc : Nat) (s : State) : (setHostPc pc s).freeIx = s.freeIx := rfl

@[simp] theorem usTick_params (s : State) : (usTick s).params = s.params := rfl
@[simp] theorem usTick_cfg (s : State) : (usTick s).cfg = s.cfg := rfl
@[simp] theorem usTick_err (s : State) : (usTick s).err = s.err := rfl
@[simp] theorem usTick_done (s : State) : (usTick s).done = s.done := rfl
@[simp] theorem usTick_werr (s : State) : (usTick s).werr = s.werr := rfl
@[simp] theorem usTick_buserr (s : State) : (usTick s).buserr = s.buserr := rfl
@[simp] theorem usTick_waitRemain (s : State) : (usTick s).waitRemain = if s.waitRemain = 0 then 0 else s.waitRemain - 1 := rfl
@[simp] theorem usTick_armWaitUs (s : State) : (usTick s).armWaitUs = s.armWaitUs := rfl
@[simp] theorem usTick_pix0 (s : State) : (usTick s).pix0 = s.pix0 := rfl
@[simp] theorem usTick_pix1 (s : State) : (usTick s).pix1 = s.pix1 := rfl
@[simp] theorem usTick_gamma0 (s : State) : (usTick s).gamma0 = s.gamma0 := rfl
@[simp] theorem usTick_gamma1 (s : State) : (usTick s).gamma1 = s.gamma1 := rfl
@[simp] theorem usTick_draw (s : State) : (usTick s).draw = s.draw := rfl
@[simp] theorem usTick_fsm (s : State) : (usTick s).fsm = s.fsm := rfl
@[simp] theorem usTick_curOp (s : State) : (usTick s).curOp = s.curOp := rfl
@[simp] theorem usTick_cursor (s : State) : (usTick s).cursor = s.cursor := rfl
@[simp] theorem usTick_inFlight (s : State) : (usTick s).inFlight = s.inFlight := rfl
@[simp] theorem usTick_mem (s : State) : (usTick s).mem = s.mem := rfl
@[simp] theorem usTick_host (s : State) : (usTick s).host = { s.host with delay := s.host.delay - 1 } := rfl
@[simp] theorem usTick_seen (s : State) : (usTick s).seen = s.seen := rfl
@[simp] theorem usTick_sched (s : State) : (usTick s).sched = s.sched := rfl
@[simp] theorem usTick_freeIx (s : State) : (usTick s).freeIx = s.freeIx := rfl

@[simp] theorem startHeld_params (s : State) : (startHeld s).params = s.params := rfl
@[simp] theorem startHeld_cfg (s : State) : (startHeld s).cfg = s.cfg := rfl
@[simp] theorem startHeld_err (s : State) : (startHeld s).err = s.err := rfl
@[simp] theorem startHeld_done (s : State) : (startHeld s).done = s.done := rfl
@[simp] theorem startHeld_werr (s : State) : (startHeld s).werr = s.werr := rfl
@[simp] theorem startHeld_buserr (s : State) : (startHeld s).buserr = s.buserr := rfl
@[simp] theorem startHeld_waitRemain (s : State) : (startHeld s).waitRemain = s.waitRemain := rfl
@[simp] theorem startHeld_armWaitUs (s : State) : (startHeld s).armWaitUs = s.armWaitUs := rfl
@[simp] theorem startHeld_pix0 (s : State) : (startHeld s).pix0 = s.pix0 := rfl
@[simp] theorem startHeld_pix1 (s : State) : (startHeld s).pix1 = s.pix1 := rfl
@[simp] theorem startHeld_gamma0 (s : State) : (startHeld s).gamma0 = s.gamma0 := rfl
@[simp] theorem startHeld_gamma1 (s : State) : (startHeld s).gamma1 = s.gamma1 := rfl
@[simp] theorem startHeld_draw (s : State) : (startHeld s).draw = s.draw := rfl
@[simp] theorem startHeld_fsm (s : State) : (startHeld s).fsm = .busy := rfl
@[simp] theorem startHeld_curOp (s : State) : (startHeld s).curOp = s.curOp := rfl
@[simp] theorem startHeld_cursor (s : State) : (startHeld s).cursor = 0 := rfl
@[simp] theorem startHeld_inFlight (s : State) : (startHeld s).inFlight = s.inFlight := rfl
@[simp] theorem startHeld_mem (s : State) : (startHeld s).mem = s.mem := rfl
@[simp] theorem startHeld_host (s : State) : (startHeld s).host = s.host := rfl
@[simp] theorem startHeld_seen (s : State) : (startHeld s).seen = s.seen := rfl
@[simp] theorem startHeld_sched (s : State) : (startHeld s).sched = s.sched := rfl
@[simp] theorem startHeld_freeIx (s : State) : (startHeld s).freeIx = s.freeIx := rfl

@[simp] theorem wordDone_params (s : State) : (wordDone s).params = s.params := rfl
@[simp] theorem wordDone_cfg (s : State) : (wordDone s).cfg = s.cfg := rfl
@[simp] theorem wordDone_err (s : State) : (wordDone s).err = s.err := rfl
@[simp] theorem wordDone_done (s : State) : (wordDone s).done = s.done := rfl
@[simp] theorem wordDone_werr (s : State) : (wordDone s).werr = s.werr := rfl
@[simp] theorem wordDone_buserr (s : State) : (wordDone s).buserr = s.buserr := rfl
@[simp] theorem wordDone_waitRemain (s : State) : (wordDone s).waitRemain = s.waitRemain := rfl
@[simp] theorem wordDone_armWaitUs (s : State) : (wordDone s).armWaitUs = s.armWaitUs := rfl
@[simp] theorem wordDone_pix0 (s : State) : (wordDone s).pix0 = s.pix0 := rfl
@[simp] theorem wordDone_pix1 (s : State) : (wordDone s).pix1 = s.pix1 := rfl
@[simp] theorem wordDone_gamma0 (s : State) : (wordDone s).gamma0 = s.gamma0 := rfl
@[simp] theorem wordDone_gamma1 (s : State) : (wordDone s).gamma1 = s.gamma1 := rfl
@[simp] theorem wordDone_draw (s : State) : (wordDone s).draw = s.draw := rfl
@[simp] theorem wordDone_fsm (s : State) : (wordDone s).fsm = s.fsm := rfl
@[simp] theorem wordDone_curOp (s : State) : (wordDone s).curOp = s.curOp := rfl
@[simp] theorem wordDone_cursor (s : State) : (wordDone s).cursor = s.cursor + 1 := rfl
@[simp] theorem wordDone_inFlight (s : State) : (wordDone s).inFlight = false := rfl
@[simp] theorem wordDone_mem (s : State) : (wordDone s).mem = s.mem.writeWord s.curAddr.toNat s.curWord := rfl
@[simp] theorem wordDone_host (s : State) : (wordDone s).host = s.host := rfl
@[simp] theorem wordDone_seen (s : State) : (wordDone s).seen = s.seen := rfl
@[simp] theorem wordDone_sched (s : State) : (wordDone s).sched = s.sched := rfl
@[simp] theorem wordDone_freeIx (s : State) : (wordDone s).freeIx = s.freeIx := rfl

@[simp] theorem wordFault_params (s : State) : (wordFault s).params = s.params := rfl
@[simp] theorem wordFault_cfg (s : State) : (wordFault s).cfg = s.cfg := rfl
@[simp] theorem wordFault_err (s : State) : (wordFault s).err = .busFault := rfl
@[simp] theorem wordFault_done (s : State) : (wordFault s).done = s.done := rfl
@[simp] theorem wordFault_werr (s : State) : (wordFault s).werr = s.werr := rfl
@[simp] theorem wordFault_buserr (s : State) : (wordFault s).buserr = s.buserr := rfl
@[simp] theorem wordFault_waitRemain (s : State) : (wordFault s).waitRemain = s.waitRemain := rfl
@[simp] theorem wordFault_armWaitUs (s : State) : (wordFault s).armWaitUs = s.armWaitUs := rfl
@[simp] theorem wordFault_pix0 (s : State) : (wordFault s).pix0 = s.pix0 := rfl
@[simp] theorem wordFault_pix1 (s : State) : (wordFault s).pix1 = s.pix1 := rfl
@[simp] theorem wordFault_gamma0 (s : State) : (wordFault s).gamma0 = s.gamma0 := rfl
@[simp] theorem wordFault_gamma1 (s : State) : (wordFault s).gamma1 = s.gamma1 := rfl
@[simp] theorem wordFault_draw (s : State) : (wordFault s).draw = s.draw := rfl
@[simp] theorem wordFault_fsm (s : State) : (wordFault s).fsm = .idle := rfl
@[simp] theorem wordFault_curOp (s : State) : (wordFault s).curOp = s.curOp := rfl
@[simp] theorem wordFault_cursor (s : State) : (wordFault s).cursor = s.cursor := rfl
@[simp] theorem wordFault_inFlight (s : State) : (wordFault s).inFlight = false := rfl
@[simp] theorem wordFault_mem (s : State) : (wordFault s).mem = s.mem.writeWord s.curAddr.toNat (Config.freeWord s.freeIx) := rfl
@[simp] theorem wordFault_host (s : State) : (wordFault s).host = s.host := rfl
@[simp] theorem wordFault_seen (s : State) : (wordFault s).seen = s.seen := rfl
@[simp] theorem wordFault_sched (s : State) : (wordFault s).sched = s.sched := rfl
@[simp] theorem wordFault_freeIx (s : State) : (wordFault s).freeIx = s.freeIx + 1 := rfl

@[simp] theorem completeCommand_params (s : State) : (completeCommand s).params = s.params := rfl
@[simp] theorem completeCommand_cfg (s : State) : (completeCommand s).cfg = s.cfg := rfl
@[simp] theorem completeCommand_err (s : State) : (completeCommand s).err = s.err := rfl
@[simp] theorem completeCommand_done (s : State) : (completeCommand s).done = true := rfl
@[simp] theorem completeCommand_werr (s : State) : (completeCommand s).werr = s.werr := rfl
@[simp] theorem completeCommand_buserr (s : State) : (completeCommand s).buserr = s.buserr := rfl
@[simp] theorem completeCommand_waitRemain (s : State) : (completeCommand s).waitRemain = s.waitRemain := rfl
@[simp] theorem completeCommand_armWaitUs (s : State) : (completeCommand s).armWaitUs = BitVec.ofNat 32 (waitUs s.params s.cfg) := rfl
@[simp] theorem completeCommand_pix0 (s : State) : (completeCommand s).pix0 = s.pix0 := rfl
@[simp] theorem completeCommand_pix1 (s : State) : (completeCommand s).pix1 = s.pix1 := rfl
@[simp] theorem completeCommand_gamma0 (s : State) : (completeCommand s).gamma0 = s.gamma0 := rfl
@[simp] theorem completeCommand_gamma1 (s : State) : (completeCommand s).gamma1 = s.gamma1 := rfl
@[simp] theorem completeCommand_draw (s : State) : (completeCommand s).draw = s.draw := rfl
@[simp] theorem completeCommand_fsm (s : State) : (completeCommand s).fsm = .idle := rfl
@[simp] theorem completeCommand_curOp (s : State) : (completeCommand s).curOp = s.curOp := rfl
@[simp] theorem completeCommand_cursor (s : State) : (completeCommand s).cursor = s.cursor := rfl
@[simp] theorem completeCommand_inFlight (s : State) : (completeCommand s).inFlight = s.inFlight := rfl
@[simp] theorem completeCommand_mem (s : State) : (completeCommand s).mem = s.mem := rfl
@[simp] theorem completeCommand_host (s : State) : (completeCommand s).host = s.host := rfl
@[simp] theorem completeCommand_seen (s : State) : (completeCommand s).seen = s.seen := rfl
@[simp] theorem completeCommand_sched (s : State) : (completeCommand s).sched = s.sched := rfl
@[simp] theorem completeCommand_freeIx (s : State) : (completeCommand s).freeIx = s.freeIx := rfl

@[simp] theorem clearBlock_params (s : State) : (clearBlock s).params = s.params := rfl
@[simp] theorem clearBlock_cfg (s : State) : (clearBlock s).cfg = Cfg.reset := rfl
@[simp] theorem clearBlock_err (s : State) : (clearBlock s).err = .none := rfl
@[simp] theorem clearBlock_done (s : State) : (clearBlock s).done = false := rfl
@[simp] theorem clearBlock_werr (s : State) : (clearBlock s).werr = false := rfl
@[simp] theorem clearBlock_buserr (s : State) : (clearBlock s).buserr = false := rfl
@[simp] theorem clearBlock_waitRemain (s : State) : (clearBlock s).waitRemain = 0 := rfl
@[simp] theorem clearBlock_armWaitUs (s : State) : (clearBlock s).armWaitUs = 0 := rfl
@[simp] theorem clearBlock_pix0 (s : State) : (clearBlock s).pix0 = [] := rfl
@[simp] theorem clearBlock_pix1 (s : State) : (clearBlock s).pix1 = [] := rfl
@[simp] theorem clearBlock_gamma0 (s : State) : (clearBlock s).gamma0 = [] := rfl
@[simp] theorem clearBlock_gamma1 (s : State) : (clearBlock s).gamma1 = [] := rfl
@[simp] theorem clearBlock_draw (s : State) : (clearBlock s).draw = s.draw + 1 := rfl
@[simp] theorem clearBlock_fsm (s : State) : (clearBlock s).fsm = .idle := rfl
@[simp] theorem clearBlock_curOp (s : State) : (clearBlock s).curOp = Config.curOpDraw (s.draw + 1) := rfl
@[simp] theorem clearBlock_cursor (s : State) : (clearBlock s).cursor = 0 := rfl
@[simp] theorem clearBlock_inFlight (s : State) : (clearBlock s).inFlight = false := rfl
@[simp] theorem clearBlock_mem (s : State) : (clearBlock s).mem = s.mem := rfl
@[simp] theorem clearBlock_host (s : State) : (clearBlock s).host = s.host := rfl
@[simp] theorem clearBlock_seen (s : State) : (clearBlock s).seen = s.seen := rfl
@[simp] theorem clearBlock_sched (s : State) : (clearBlock s).sched = s.sched := rfl
@[simp] theorem clearBlock_freeIx (s : State) : (clearBlock s).freeIx = s.freeIx := rfl

@[simp] theorem setPix_params (l : LaneId) (i : Nat) (v : Word) (s : State) : (s.setPix l i v).params = s.params := by cases l <;> rfl
@[simp] theorem setPix_cfg (l : LaneId) (i : Nat) (v : Word) (s : State) : (s.setPix l i v).cfg = s.cfg := by cases l <;> rfl
@[simp] theorem setPix_err (l : LaneId) (i : Nat) (v : Word) (s : State) : (s.setPix l i v).err = s.err := by cases l <;> rfl
@[simp] theorem setPix_done (l : LaneId) (i : Nat) (v : Word) (s : State) : (s.setPix l i v).done = s.done := by cases l <;> rfl
@[simp] theorem setPix_werr (l : LaneId) (i : Nat) (v : Word) (s : State) : (s.setPix l i v).werr = s.werr := by cases l <;> rfl
@[simp] theorem setPix_buserr (l : LaneId) (i : Nat) (v : Word) (s : State) : (s.setPix l i v).buserr = s.buserr := by cases l <;> rfl
@[simp] theorem setPix_waitRemain (l : LaneId) (i : Nat) (v : Word) (s : State) : (s.setPix l i v).waitRemain = s.waitRemain := by cases l <;> rfl
@[simp] theorem setPix_armWaitUs (l : LaneId) (i : Nat) (v : Word) (s : State) : (s.setPix l i v).armWaitUs = s.armWaitUs := by cases l <;> rfl
@[simp] theorem setPix_gamma0 (l : LaneId) (i : Nat) (v : Word) (s : State) : (s.setPix l i v).gamma0 = s.gamma0 := by cases l <;> rfl
@[simp] theorem setPix_gamma1 (l : LaneId) (i : Nat) (v : Word) (s : State) : (s.setPix l i v).gamma1 = s.gamma1 := by cases l <;> rfl
@[simp] theorem setPix_draw (l : LaneId) (i : Nat) (v : Word) (s : State) : (s.setPix l i v).draw = s.draw := by cases l <;> rfl
@[simp] theorem setPix_fsm (l : LaneId) (i : Nat) (v : Word) (s : State) : (s.setPix l i v).fsm = s.fsm := by cases l <;> rfl
@[simp] theorem setPix_curOp (l : LaneId) (i : Nat) (v : Word) (s : State) : (s.setPix l i v).curOp = s.curOp := by cases l <;> rfl
@[simp] theorem setPix_cursor (l : LaneId) (i : Nat) (v : Word) (s : State) : (s.setPix l i v).cursor = s.cursor := by cases l <;> rfl
@[simp] theorem setPix_inFlight (l : LaneId) (i : Nat) (v : Word) (s : State) : (s.setPix l i v).inFlight = s.inFlight := by cases l <;> rfl
@[simp] theorem setPix_mem (l : LaneId) (i : Nat) (v : Word) (s : State) : (s.setPix l i v).mem = s.mem := by cases l <;> rfl
@[simp] theorem setPix_host (l : LaneId) (i : Nat) (v : Word) (s : State) : (s.setPix l i v).host = s.host := by cases l <;> rfl
@[simp] theorem setPix_seen (l : LaneId) (i : Nat) (v : Word) (s : State) : (s.setPix l i v).seen = s.seen := by cases l <;> rfl
@[simp] theorem setPix_sched (l : LaneId) (i : Nat) (v : Word) (s : State) : (s.setPix l i v).sched = s.sched := by cases l <;> rfl
@[simp] theorem setPix_freeIx (l : LaneId) (i : Nat) (v : Word) (s : State) : (s.setPix l i v).freeIx = s.freeIx := by cases l <;> rfl

@[simp] theorem setGamma_params (l : LaneId) (c : Nat) (v : Byte) (s : State) : (s.setGamma l c v).params = s.params := by cases l <;> rfl
@[simp] theorem setGamma_cfg (l : LaneId) (c : Nat) (v : Byte) (s : State) : (s.setGamma l c v).cfg = s.cfg := by cases l <;> rfl
@[simp] theorem setGamma_err (l : LaneId) (c : Nat) (v : Byte) (s : State) : (s.setGamma l c v).err = s.err := by cases l <;> rfl
@[simp] theorem setGamma_done (l : LaneId) (c : Nat) (v : Byte) (s : State) : (s.setGamma l c v).done = s.done := by cases l <;> rfl
@[simp] theorem setGamma_werr (l : LaneId) (c : Nat) (v : Byte) (s : State) : (s.setGamma l c v).werr = s.werr := by cases l <;> rfl
@[simp] theorem setGamma_buserr (l : LaneId) (c : Nat) (v : Byte) (s : State) : (s.setGamma l c v).buserr = s.buserr := by cases l <;> rfl
@[simp] theorem setGamma_waitRemain (l : LaneId) (c : Nat) (v : Byte) (s : State) : (s.setGamma l c v).waitRemain = s.waitRemain := by cases l <;> rfl
@[simp] theorem setGamma_armWaitUs (l : LaneId) (c : Nat) (v : Byte) (s : State) : (s.setGamma l c v).armWaitUs = s.armWaitUs := by cases l <;> rfl
@[simp] theorem setGamma_pix0 (l : LaneId) (c : Nat) (v : Byte) (s : State) : (s.setGamma l c v).pix0 = s.pix0 := by cases l <;> rfl
@[simp] theorem setGamma_pix1 (l : LaneId) (c : Nat) (v : Byte) (s : State) : (s.setGamma l c v).pix1 = s.pix1 := by cases l <;> rfl
@[simp] theorem setGamma_draw (l : LaneId) (c : Nat) (v : Byte) (s : State) : (s.setGamma l c v).draw = s.draw := by cases l <;> rfl
@[simp] theorem setGamma_fsm (l : LaneId) (c : Nat) (v : Byte) (s : State) : (s.setGamma l c v).fsm = s.fsm := by cases l <;> rfl
@[simp] theorem setGamma_curOp (l : LaneId) (c : Nat) (v : Byte) (s : State) : (s.setGamma l c v).curOp = s.curOp := by cases l <;> rfl
@[simp] theorem setGamma_cursor (l : LaneId) (c : Nat) (v : Byte) (s : State) : (s.setGamma l c v).cursor = s.cursor := by cases l <;> rfl
@[simp] theorem setGamma_inFlight (l : LaneId) (c : Nat) (v : Byte) (s : State) : (s.setGamma l c v).inFlight = s.inFlight := by cases l <;> rfl
@[simp] theorem setGamma_mem (l : LaneId) (c : Nat) (v : Byte) (s : State) : (s.setGamma l c v).mem = s.mem := by cases l <;> rfl
@[simp] theorem setGamma_host (l : LaneId) (c : Nat) (v : Byte) (s : State) : (s.setGamma l c v).host = s.host := by cases l <;> rfl
@[simp] theorem setGamma_seen (l : LaneId) (c : Nat) (v : Byte) (s : State) : (s.setGamma l c v).seen = s.seen := by cases l <;> rfl
@[simp] theorem setGamma_sched (l : LaneId) (c : Nat) (v : Byte) (s : State) : (s.setGamma l c v).sched = s.sched := by cases l <;> rfl
@[simp] theorem setGamma_freeIx (l : LaneId) (c : Nat) (v : Byte) (s : State) : (s.setGamma l c v).freeIx = s.freeIx := by cases l <;> rfl

@[simp] theorem setGammaWord_params (l : LaneId) (k : Nat) (v : Word) (s : State) : (s.setGammaWord l k v).params = s.params := by cases l <;> rfl
@[simp] theorem setGammaWord_cfg (l : LaneId) (k : Nat) (v : Word) (s : State) : (s.setGammaWord l k v).cfg = s.cfg := by cases l <;> rfl
@[simp] theorem setGammaWord_err (l : LaneId) (k : Nat) (v : Word) (s : State) : (s.setGammaWord l k v).err = s.err := by cases l <;> rfl
@[simp] theorem setGammaWord_done (l : LaneId) (k : Nat) (v : Word) (s : State) : (s.setGammaWord l k v).done = s.done := by cases l <;> rfl
@[simp] theorem setGammaWord_werr (l : LaneId) (k : Nat) (v : Word) (s : State) : (s.setGammaWord l k v).werr = s.werr := by cases l <;> rfl
@[simp] theorem setGammaWord_buserr (l : LaneId) (k : Nat) (v : Word) (s : State) : (s.setGammaWord l k v).buserr = s.buserr := by cases l <;> rfl
@[simp] theorem setGammaWord_waitRemain (l : LaneId) (k : Nat) (v : Word) (s : State) : (s.setGammaWord l k v).waitRemain = s.waitRemain := by cases l <;> rfl
@[simp] theorem setGammaWord_armWaitUs (l : LaneId) (k : Nat) (v : Word) (s : State) : (s.setGammaWord l k v).armWaitUs = s.armWaitUs := by cases l <;> rfl
@[simp] theorem setGammaWord_pix0 (l : LaneId) (k : Nat) (v : Word) (s : State) : (s.setGammaWord l k v).pix0 = s.pix0 := by cases l <;> rfl
@[simp] theorem setGammaWord_pix1 (l : LaneId) (k : Nat) (v : Word) (s : State) : (s.setGammaWord l k v).pix1 = s.pix1 := by cases l <;> rfl
@[simp] theorem setGammaWord_draw (l : LaneId) (k : Nat) (v : Word) (s : State) : (s.setGammaWord l k v).draw = s.draw := by cases l <;> rfl
@[simp] theorem setGammaWord_fsm (l : LaneId) (k : Nat) (v : Word) (s : State) : (s.setGammaWord l k v).fsm = s.fsm := by cases l <;> rfl
@[simp] theorem setGammaWord_curOp (l : LaneId) (k : Nat) (v : Word) (s : State) : (s.setGammaWord l k v).curOp = s.curOp := by cases l <;> rfl
@[simp] theorem setGammaWord_cursor (l : LaneId) (k : Nat) (v : Word) (s : State) : (s.setGammaWord l k v).cursor = s.cursor := by cases l <;> rfl
@[simp] theorem setGammaWord_inFlight (l : LaneId) (k : Nat) (v : Word) (s : State) : (s.setGammaWord l k v).inFlight = s.inFlight := by cases l <;> rfl
@[simp] theorem setGammaWord_mem (l : LaneId) (k : Nat) (v : Word) (s : State) : (s.setGammaWord l k v).mem = s.mem := by cases l <;> rfl
@[simp] theorem setGammaWord_host (l : LaneId) (k : Nat) (v : Word) (s : State) : (s.setGammaWord l k v).host = s.host := by cases l <;> rfl
@[simp] theorem setGammaWord_seen (l : LaneId) (k : Nat) (v : Word) (s : State) : (s.setGammaWord l k v).seen = s.seen := by cases l <;> rfl
@[simp] theorem setGammaWord_sched (l : LaneId) (k : Nat) (v : Word) (s : State) : (s.setGammaWord l k v).sched = s.sched := by cases l <;> rfl
@[simp] theorem setGammaWord_freeIx (l : LaneId) (k : Nat) (v : Word) (s : State) : (s.setGammaWord l k v).freeIx = s.freeIx := by cases l <;> rfl

@[simp] theorem accept_params (op : CurOp) (s : State) : (accept op s).params = s.params := by unfold accept; split <;> rfl
@[simp] theorem accept_cfg (op : CurOp) (s : State) : (accept op s).cfg = s.cfg := by unfold accept; split <;> rfl
@[simp] theorem accept_err (op : CurOp) (s : State) : (accept op s).err = s.err := by unfold accept; split <;> rfl
@[simp] theorem accept_done (op : CurOp) (s : State) : (accept op s).done = false := by unfold accept; split <;> rfl
@[simp] theorem accept_werr (op : CurOp) (s : State) : (accept op s).werr = s.werr := by unfold accept; split <;> rfl
@[simp] theorem accept_buserr (op : CurOp) (s : State) : (accept op s).buserr = s.buserr := by unfold accept; split <;> rfl
@[simp] theorem accept_waitRemain (op : CurOp) (s : State) : (accept op s).waitRemain = s.waitRemain := by unfold accept; split <;> rfl
@[simp] theorem accept_armWaitUs (op : CurOp) (s : State) : (accept op s).armWaitUs = s.armWaitUs := by unfold accept; split <;> rfl
@[simp] theorem accept_pix0 (op : CurOp) (s : State) : (accept op s).pix0 = s.pix0 := by unfold accept; split <;> rfl
@[simp] theorem accept_pix1 (op : CurOp) (s : State) : (accept op s).pix1 = s.pix1 := by unfold accept; split <;> rfl
@[simp] theorem accept_gamma0 (op : CurOp) (s : State) : (accept op s).gamma0 = s.gamma0 := by unfold accept; split <;> rfl
@[simp] theorem accept_gamma1 (op : CurOp) (s : State) : (accept op s).gamma1 = s.gamma1 := by unfold accept; split <;> rfl
@[simp] theorem accept_draw (op : CurOp) (s : State) : (accept op s).draw = s.draw := by unfold accept; split <;> rfl
@[simp] theorem accept_fsm (op : CurOp) (s : State) : (accept op s).fsm = if s.waitRemain = 0 then .busy else .pending := by unfold accept; split <;> rfl
@[simp] theorem accept_curOp (op : CurOp) (s : State) : (accept op s).curOp = op := by unfold accept; split <;> rfl
@[simp] theorem accept_cursor (op : CurOp) (s : State) : (accept op s).cursor = if s.waitRemain = 0 then 0 else s.cursor := by unfold accept; split <;> rfl
@[simp] theorem accept_inFlight (op : CurOp) (s : State) : (accept op s).inFlight = s.inFlight := by unfold accept; split <;> rfl
@[simp] theorem accept_mem (op : CurOp) (s : State) : (accept op s).mem = s.mem := by unfold accept; split <;> rfl
@[simp] theorem accept_host (op : CurOp) (s : State) : (accept op s).host = s.host := by unfold accept; split <;> rfl
@[simp] theorem accept_seen (op : CurOp) (s : State) : (accept op s).seen = s.seen := by unfold accept; split <;> rfl
@[simp] theorem accept_sched (op : CurOp) (s : State) : (accept op s).sched = s.sched := by unfold accept; split <;> rfl
@[simp] theorem accept_freeIx (op : CurOp) (s : State) : (accept op s).freeIx = s.freeIx := by unfold accept; split <;> rfl

@[simp] theorem writeStatus_params (v : Word) (s : State) : (writeStatus v s).params = s.params := by unfold writeStatus; dsimp only; split <;> rfl
@[simp] theorem writeStatus_cfg (v : Word) (s : State) : (writeStatus v s).cfg = s.cfg := by unfold writeStatus; dsimp only; split <;> rfl
@[simp] theorem writeStatus_err (v : Word) (s : State) : (writeStatus v s).err = if v.getLsbD 31 then .none else s.err := by unfold writeStatus; dsimp only; split <;> rfl
@[simp] theorem writeStatus_done (v : Word) (s : State) : (writeStatus v s).done = (s.done && !v.getLsbD 12) := by unfold writeStatus; dsimp only; split <;> rfl
@[simp] theorem writeStatus_werr (v : Word) (s : State) : (writeStatus v s).werr = (s.werr && !v.getLsbD 13) := by unfold writeStatus; dsimp only; split <;> rfl
@[simp] theorem writeStatus_buserr (v : Word) (s : State) : (writeStatus v s).buserr = (s.buserr && !v.getLsbD 14) := by unfold writeStatus; dsimp only; split <;> rfl
@[simp] theorem writeStatus_waitRemain (v : Word) (s : State) : (writeStatus v s).waitRemain = s.waitRemain := by unfold writeStatus; dsimp only; split <;> rfl
@[simp] theorem writeStatus_armWaitUs (v : Word) (s : State) : (writeStatus v s).armWaitUs = s.armWaitUs := by unfold writeStatus; dsimp only; split <;> rfl
@[simp] theorem writeStatus_pix0 (v : Word) (s : State) : (writeStatus v s).pix0 = s.pix0 := by unfold writeStatus; dsimp only; split <;> rfl
@[simp] theorem writeStatus_pix1 (v : Word) (s : State) : (writeStatus v s).pix1 = s.pix1 := by unfold writeStatus; dsimp only; split <;> rfl
@[simp] theorem writeStatus_gamma0 (v : Word) (s : State) : (writeStatus v s).gamma0 = s.gamma0 := by unfold writeStatus; dsimp only; split <;> rfl
@[simp] theorem writeStatus_gamma1 (v : Word) (s : State) : (writeStatus v s).gamma1 = s.gamma1 := by unfold writeStatus; dsimp only; split <;> rfl
@[simp] theorem writeStatus_draw (v : Word) (s : State) : (writeStatus v s).draw = s.draw := by unfold writeStatus; dsimp only; split <;> rfl
@[simp] theorem writeStatus_fsm (v : Word) (s : State) : (writeStatus v s).fsm = s.fsm := by unfold writeStatus; dsimp only; split <;> rfl
@[simp] theorem writeStatus_curOp (v : Word) (s : State) : (writeStatus v s).curOp = s.curOp := by unfold writeStatus; dsimp only; split <;> rfl
@[simp] theorem writeStatus_cursor (v : Word) (s : State) : (writeStatus v s).cursor = s.cursor := by unfold writeStatus; dsimp only; split <;> rfl
@[simp] theorem writeStatus_inFlight (v : Word) (s : State) : (writeStatus v s).inFlight = s.inFlight := by unfold writeStatus; dsimp only; split <;> rfl
@[simp] theorem writeStatus_mem (v : Word) (s : State) : (writeStatus v s).mem = s.mem := by unfold writeStatus; dsimp only; split <;> rfl
@[simp] theorem writeStatus_host (v : Word) (s : State) : (writeStatus v s).host = s.host := by unfold writeStatus; dsimp only; split <;> rfl
@[simp] theorem writeStatus_seen (v : Word) (s : State) : (writeStatus v s).seen = s.seen := by unfold writeStatus; dsimp only; split <;> rfl
@[simp] theorem writeStatus_sched (v : Word) (s : State) : (writeStatus v s).sched = s.sched := by unfold writeStatus; dsimp only; split <;> rfl
@[simp] theorem writeStatus_freeIx (v : Word) (s : State) : (writeStatus v s).freeIx = s.freeIx := by unfold writeStatus; dsimp only; split <;> rfl

@[simp] theorem popMove_params (s : State) : (s.popMove).params = s.params := by unfold State.popMove; split <;> rfl
@[simp] theorem popMove_cfg (s : State) : (s.popMove).cfg = s.cfg := by unfold State.popMove; split <;> rfl
@[simp] theorem popMove_err (s : State) : (s.popMove).err = s.err := by unfold State.popMove; split <;> rfl
@[simp] theorem popMove_done (s : State) : (s.popMove).done = s.done := by unfold State.popMove; split <;> rfl
@[simp] theorem popMove_werr (s : State) : (s.popMove).werr = s.werr := by unfold State.popMove; split <;> rfl
@[simp] theorem popMove_buserr (s : State) : (s.popMove).buserr = s.buserr := by unfold State.popMove; split <;> rfl
@[simp] theorem popMove_waitRemain (s : State) : (s.popMove).waitRemain = s.waitRemain := by unfold State.popMove; split <;> rfl
@[simp] theorem popMove_armWaitUs (s : State) : (s.popMove).armWaitUs = s.armWaitUs := by unfold State.popMove; split <;> rfl
@[simp] theorem popMove_pix0 (s : State) : (s.popMove).pix0 = s.pix0 := by unfold State.popMove; split <;> rfl
@[simp] theorem popMove_pix1 (s : State) : (s.popMove).pix1 = s.pix1 := by unfold State.popMove; split <;> rfl
@[simp] theorem popMove_gamma0 (s : State) : (s.popMove).gamma0 = s.gamma0 := by unfold State.popMove; split <;> rfl
@[simp] theorem popMove_gamma1 (s : State) : (s.popMove).gamma1 = s.gamma1 := by unfold State.popMove; split <;> rfl
@[simp] theorem popMove_draw (s : State) : (s.popMove).draw = s.draw := by unfold State.popMove; split <;> rfl
@[simp] theorem popMove_fsm (s : State) : (s.popMove).fsm = s.fsm := by unfold State.popMove; split <;> rfl
@[simp] theorem popMove_curOp (s : State) : (s.popMove).curOp = s.curOp := by unfold State.popMove; split <;> rfl
@[simp] theorem popMove_cursor (s : State) : (s.popMove).cursor = s.cursor := by unfold State.popMove; split <;> rfl
@[simp] theorem popMove_inFlight (s : State) : (s.popMove).inFlight = s.inFlight := by unfold State.popMove; split <;> rfl
@[simp] theorem popMove_mem (s : State) : (s.popMove).mem = s.mem := by unfold State.popMove; split <;> rfl
@[simp] theorem popMove_host (s : State) : (s.popMove).host = s.host := by unfold State.popMove; split <;> rfl
@[simp] theorem popMove_seen (s : State) : (s.popMove).seen = s.seen := by unfold State.popMove; split <;> rfl

end Sys2Proof.Machine
end

