-- ==== Sys2Proof/Laws/Commands.lean ====
section
/-! SUPPORT. Everything a command can do, said once. -/

namespace Sys2Proof.Machine

/-- ENCODE and BLANK raise one error and do nothing else, or are accepted with a legal configuration from `IDLE`. -/
theorem startCommand_cases (op : CurOp) (s : State) :
    (∃ e, e ≠ .none ∧ startCommand op s = raiseErr e s) ∨
    (startCommand op s = accept op s ∧ s.fsm = .idle ∧ cfgOk s.params s.cfg = true) := by
  unfold startCommand
  split_ifs with h1 h2 h3
  · exact .inl ⟨_, by simp, rfl⟩
  · exact .inl ⟨_, by simp, rfl⟩
  · exact .inl ⟨_, by simp, rfl⟩
  · exact .inr ⟨rfl, by simpa using h1, by simp_all [cfgOk]⟩

/-- A command is accepted exactly in `IDLE` with a legal configuration. -/
theorem startCommand_accepts {op : CurOp} {s : State} (hi : s.fsm = .idle) (hc : cfgOk s.params s.cfg = true) :
    startCommand op s = accept op s := by
  simp only [cfgOk, Bool.and_eq_true] at hc
  simp [startCommand, hi, hc]

/-- A command does nothing, raises one error, is accepted, or loads the wait timer. -/
theorem exec_cases {i : Instr} {s t : State} (h : exec i s = .next t) :
    t = s ∨ (∃ e, e ≠ .none ∧ t = raiseErr e s) ∨
    (∃ op, t = accept op s ∧ s.fsm = .idle ∧ cfgOk s.params s.cfg = true ∧ (i = .encode ∨ i = .blank)) ∨
    (i = .armed ∧ s.fsm = .idle ∧ t = { s with waitRemain := s.armWaitUs }) := by
  cases i with
  | nop => exact .inl (by simpa [exec, execNop] using h.symm)
  | encode =>
    simp only [exec, execEncode, Host.Outcome.next.injEq] at h
    subst h
    obtain ⟨e, hn, he⟩ | ⟨ha, hi, hc⟩ := startCommand_cases .encode s
    · exact .inr (.inl ⟨e, hn, he⟩)
    · exact .inr (.inr (.inl ⟨_, ha, hi, hc, .inl rfl⟩))
  | blank =>
    simp only [exec, execBlank, Host.Outcome.next.injEq] at h
    subst h
    obtain ⟨e, hn, he⟩ | ⟨ha, hi, hc⟩ := startCommand_cases .blank s
    · exact .inr (.inl ⟨e, hn, he⟩)
    · exact .inr (.inr (.inl ⟨_, ha, hi, hc, .inr rfl⟩))
  | armed =>
    simp only [exec, execArmed, Host.Outcome.next.injEq] at h
    subst h
    split_ifs with hi
    · exact .inr (.inl ⟨_, by simp, rfl⟩)
    · exact .inr (.inr (.inr ⟨rfl, by simpa using hi, rfl⟩))
  | reservedLow op => exact .inr (.inl ⟨.badCmd, by simp, by simpa [exec, execReservedLow] using h.symm⟩)
  | reservedHigh op => exact .inr (.inl ⟨.badCmd, by simp, by simpa [exec, execReservedHigh] using h.symm⟩)

end Sys2Proof.Machine
end

