-- ==== Sys2Proof/Laws/Decode.lean ====
section
/-! SUPPORT. The decoder on a word's own bytes, and the opcode of what it reads. -/

namespace Sys2Proof

open Sys2Proof.Machine

/-- The decoder on the bytes of a word gives that word's command and leaves the bytes after them. -/
theorem decode_bytesOfWord (w : Word) (rest : List Byte) : decode (bytesOfWord w ++ rest) = .ok (decodeWord w, rest) := by
  simp [bytesOfWord, decode]

/-- The command of an opcode is well formed and has that opcode. -/
theorem decodeOp_spec : ∀ op : BitVec 4, (decodeOp op).op = op ∧ (decodeOp op).wellFormed = true := by decide

/-- The low four bits of a word, as a word. -/
theorem and_low4 (w : Word) : w &&& 0x0000000F#32 = 0#28 ++ w.extractLsb' 0 4 := by
  refine BitVec.eq_of_getLsbD_eq fun i hi => ?_
  simp only [BitVec.getLsbD_and, BitVec.getLsbD_append, BitVec.getLsbD_extractLsb']
  interval_cases i <;> simp

theorem extract_low4 (op : BitVec 4) : (0#28 ++ op : BitVec (28 + 4)).extractLsb' 0 4 = op := by
  refine BitVec.eq_of_getLsbD_eq fun i hi => ?_
  simp only [BitVec.getLsbD_append, BitVec.getLsbD_extractLsb']
  simp [hi]

/-- A word whose low four bits are an opcode decodes as that opcode. -/
theorem decodeWord_of_low4 {w : Word} {op : BitVec 4} (h : w &&& 0x0000000F#32 = 0#28 ++ op) : decodeWord w = decodeOp op := by
  rw [and_low4] at h
  have := congrArg (fun x : BitVec (28 + 4) => x.extractLsb' 0 4) h
  rw [decodeWord]
  congr 1
  simpa only [extract_low4] using this

end Sys2Proof
end

