-- ==== Sys2Proof/Laws/Memory.lean ====
section
/-! SUPPORT. The output bus space and the RAMs: a read after a write, and that every operation keeps the canonical form. -/

namespace Sys2Proof.Machine

@[simp] theorem Memory.read_write (m : Memory) (a b : Nat) (v : Byte) :
    (m.write a v).read b = if b = a then some v else m.read b := Cells.get_set m a b v

/-- A word write changes the four bytes at its address and no other. -/
theorem Memory.read_writeWord (m : Memory) (a b : Nat) (v : Word) :
    (m.writeWord a v).read b = if a ≤ b ∧ b < a + 4 then some (wordByte v (b - a)) else m.read b := by
  simp only [Memory.writeWord, Memory.read_write]
  split_ifs with h3 h2 h1 h0 <;> first | omega | rfl | skip
  all_goals (subst_vars; simp)

theorem Memory.read_writeWord_ne (m : Memory) {a b : Nat} (v : Word) (h : b < a ∨ a + 4 ≤ b) :
    (m.writeWord a v).read b = m.read b := by
  rw [Memory.read_writeWord, if_neg (by omega)]

theorem Memory.wf_write {m : Memory} {a : Nat} (v : Byte) (h : m.wf = true) (ha : a < 2 ^ 32) : (m.write a v).wf = true :=
  Cells.wf_set v h ha

theorem Memory.wf_writeWord {m : Memory} {a : Nat} (v : Word) (h : m.wf = true) (ha : a + 3 < 2 ^ 32) :
    (m.writeWord a v).wf = true :=
  Memory.wf_write _ (Memory.wf_write _ (Memory.wf_write _ (Memory.wf_write _ h (by omega)) (by omega)) (by omega)) ha

theorem reset_mem_wf : Memory.wf State.reset.mem = true := Cells.wf_nil _

/-- The word just written is the word the memory holds. -/
theorem busWord_of_writeWord {s : State} {m : Memory} {a : Nat} {v : Word} (h : s.mem = m.writeWord a v) : s.busWord a = v := by
  simp [State.busWord, State.busByte, h, Memory.read_writeWord]

/-- A word of the bus space depends on its four bytes alone. -/
theorem busWord_congr {s t : State} {a : Nat} (h : ∀ b, a ≤ b → b < a + 4 → t.mem.read b = s.mem.read b) :
    t.busWord a = s.busWord a := by
  simp [State.busWord, State.busByte, h a (by omega) (by omega), h (a + 1) (by omega) (by omega),
    h (a + 2) (by omega) (by omega), h (a + 3) (by omega) (by omega)]

theorem busWord_of_mem_eq {s t : State} (h : t.mem = s.mem) (a : Nat) : t.busWord a = s.busWord a :=
  busWord_congr fun _ _ _ => by rw [h]

/-! ### RAMs -/

theorem pixRam_setPix (s : State) (l l' : LaneId) (i : Nat) (v : Word) :
    (s.setPix l i v).pixRam l' = if l' = l then Cells.set (s.pixRam l) i v else s.pixRam l' := by
  cases l <;> cases l' <;> rfl

theorem gammaRam_setGamma (s : State) (l l' : LaneId) (c : Nat) (v : Byte) :
    (s.setGamma l c v).gammaRam l' = if l' = l then Cells.set (s.gammaRam l) c v else s.gammaRam l' := by
  cases l <;> cases l' <;> rfl

@[simp] theorem pixRam_setGamma (s : State) (l l' : LaneId) (c : Nat) (v : Byte) :
    (s.setGamma l c v).pixRam l' = s.pixRam l' := by cases l <;> rfl

@[simp] theorem gammaRam_setPix (s : State) (l l' : LaneId) (i : Nat) (v : Word) :
    (s.setPix l i v).gammaRam l' = s.gammaRam l' := by cases l <;> rfl

/-- A pixel write changes its own word and no other. -/
theorem pix_setPix (s : State) (l l' : LaneId) (i i' : Nat) (v : Word) :
    (s.setPix l i v).pix l' i' = if l' = l ∧ i' = i then v else s.pix l' i' := by
  simp only [State.pix, pixRam_setPix, setPix_draw]
  split_ifs <;> simp_all

/-- A gamma entry's write changes its own entry and no other. -/
theorem gamma_setGamma (s : State) (l l' : LaneId) (c c' : Nat) (v : Byte) :
    (s.setGamma l c v).gamma l' c' = if l' = l ∧ c' = c then v else s.gamma l' c' := by
  simp only [State.gamma, gammaRam_setGamma, setGamma_draw]
  split_ifs <;> simp_all

/-- A gamma word's write sets its four entries and no other. -/
theorem gamma_setGammaWord (s : State) (l l' : LaneId) (k c : Nat) (v : Word) :
    (s.setGammaWord l k v).gamma l' c = if l' = l ∧ c / 4 = k then wordByte v (c % 4) else s.gamma l' c := by
  simp only [State.setGammaWord, gamma_setGamma]
  by_cases hl : l' = l
  · simp only [hl, true_and]
    by_cases hk : c / 4 = k
    · have hc : c = 4 * k + c % 4 := by omega
      have : c % 4 < 4 := Nat.mod_lt _ (by omega)
      generalize c % 4 = r at *
      subst hc
      interval_cases r <;> simp [hk]
    · rw [if_neg (by omega), if_neg (by omega), if_neg (by omega), if_neg (by omega), if_neg hk]
  · simp [hl]

@[simp] theorem pix_setGammaWord (s : State) (l l' : LaneId) (k i : Nat) (v : Word) :
    (s.setGammaWord l k v).pix l' i = s.pix l' i := by cases l <;> rfl

@[simp] theorem gamma_setPix (s : State) (l l' : LaneId) (i c : Nat) (v : Word) :
    (s.setPix l i v).gamma l' c = s.gamma l' c := by cases l <;> rfl

theorem pixRam_wf_setPix {s : State} {n : Nat} (l : LaneId) (i : Nat) (v : Word)
    (h : ∀ l, Cells.wf n (s.pixRam l) = true) (hi : i < n) (l' : LaneId) : Cells.wf n ((s.setPix l i v).pixRam l') = true := by
  rw [pixRam_setPix]
  split
  · exact Cells.wf_set _ (h l) hi
  · exact h l'

theorem gammaRam_wf_setGamma {s : State} (l : LaneId) (c : Nat) (v : Byte)
    (h : ∀ l, Cells.wf 256 (s.gammaRam l) = true) (hc : c < 256) (l' : LaneId) :
    Cells.wf 256 ((s.setGamma l c v).gammaRam l') = true := by
  rw [gammaRam_setGamma]
  split
  · exact Cells.wf_set _ (h l) hc
  · exact h l'

theorem gammaRam_wf_setGammaWord {s : State} (l : LaneId) (k : Nat) (v : Word)
    (h : ∀ l, Cells.wf 256 (s.gammaRam l) = true) (hk : k < 64) (l' : LaneId) :
    Cells.wf 256 ((s.setGammaWord l k v).gammaRam l') = true :=
  gammaRam_wf_setGamma _ _ _ (gammaRam_wf_setGamma _ _ _ (gammaRam_wf_setGamma _ _ _
    (gammaRam_wf_setGamma _ _ _ h (by omega)) (by omega)) (by omega)) (by omega) l'

end Sys2Proof.Machine
end

