-- ==== Sys2Proof/Laws/Sizing.lean ====
section
/-! SUPPORT. The sizing arithmetic: ceiling division, the legal ranges, and the bounds every size keeps. -/

namespace Sys2Proof.Machine

/-- `ceilDiv` is the least number whose product with the divisor reaches the dividend. -/
theorem ceilDiv_le_iff {a b k : Nat} (hb : 0 < b) : ceilDiv a b ≤ k ↔ a ≤ k * b := by
  unfold ceilDiv
  rw [← Nat.lt_succ_iff, Nat.div_lt_iff_lt_mul hb, Nat.succ_mul]
  omega

theorem le_ceilDiv_mul (a : Nat) {b : Nat} (hb : 0 < b) : a ≤ ceilDiv a b * b := (ceilDiv_le_iff hb).1 (le_refl _)

theorem Params.legal_iff (p : Params) :
    p.legal = true ↔ (2400000 ≤ p.oscHz ∧ p.oscHz / 1200000 ≤ 4095) ∧ 1 ≤ p.pixCap ∧ p.pixCap ≤ 16384 := by
  simp [Params.legal, and_assoc]

theorem Cfg.freqOk_iff (c : Cfg) : c.freqOk = true ↔ 400000 ≤ c.freq.toNat ∧ c.freq.toNat ≤ 800000 := by
  simp only [Cfg.freqOk, Bool.and_eq_true, decide_eq_true_eq]
  exact Iff.rfl

/-- `DATA_WORDS = 3 · NMAX` exactly (41_symbol_packing.md R153). -/
theorem Cfg.dataWords_eq (c : Cfg) : c.dataWords = 3 * c.nmax := by
  simp only [Cfg.dataWords, ceilDiv, coloursMax, slotsPerByte, wordBits]
  omega

theorem Cfg.count_le_nmax (c : Cfg) (l : LaneId) (h : c.active l = true) : (c.lane l).count.toNat ≤ c.nmax := by
  cases l <;> simp [Cfg.nmax, Cfg.activeCount, h]

theorem Cfg.nl_pos (c : Cfg) : 0 < c.nl := by
  unfold Cfg.nl
  cases c.mode <;> decide

theorem clkDiv_pos {p : Params} {c : Cfg} (hp : p.legal = true) (hf : c.freqOk = true) : 1 ≤ clkDiv p c := by
  rw [Params.legal_iff] at hp
  have h := (Cfg.freqOk_iff c).1 hf
  simp only [clkDiv, hf, if_true]
  exact (Nat.one_le_div_iff (by omega)).2 (by omega)

/-- With a legal frequency the buffer has at least one word (43_commands.md R198). -/
theorem resetWords_pos {p : Params} {c : Cfg} (hp : p.legal = true) (hf : c.freqOk = true) (hr : 300 ≤ c.resetUs.toNat) :
    1 ≤ resetWords p c := by
  by_contra hlt
  have h0 : resetWords p c ≤ 0 := by omega
  have hd := clkDiv_pos hp hf
  rw [resetWords, ceilDiv_le_iff (by decide), Nat.zero_mul, resetBits, if_pos hf, ceilDiv_le_iff (by omega), Nat.zero_mul] at h0
  rw [Params.legal_iff] at hp
  have : 0 < c.resetUs.toNat * p.oscHz := Nat.mul_pos (by omega) (by omega)
  omega

theorem bufWords_pos {p : Params} {c : Cfg} (hp : p.legal = true) (hf : c.freqOk = true) (hr : 300 ≤ c.resetUs.toNat) :
    1 ≤ bufWords p c := by
  have := resetWords_pos hp hf hr
  have hl : 1 ≤ laneWords p c := by simp only [laneWords, hf, if_true]; omega
  exact Nat.mul_pos c.nl_pos hl

/-- What `CAP_OK` says of the buffer: it ends inside the 32-bit bus space (41_symbol_packing.md R157). -/
theorem capOk_bounds {p : Params} {c : Cfg} (h : capOk p c = true) :
    bufWords p c ≤ c.outCap.toNat ∧ c.outBaseWord.toNat + 4 * c.outCap.toNat ≤ 2 ^ 32 := by
  simp only [capOk, Bool.and_eq_true, decide_eq_true_eq] at h
  exact ⟨h.1.2, h.2⟩

theorem capOk_of_cfgOk {p : Params} {c : Cfg} (h : cfgOk p c = true) : c.freqOk = true ∧ capOk p c = true := by
  simpa [cfgOk] using h

theorem ceilDiv_mono {a b c : Nat} (hc : 0 < c) (h : a ≤ b) : ceilDiv a c ≤ ceilDiv b c := by
  rw [ceilDiv_le_iff hc]
  exact h.trans (le_ceilDiv_mul _ hc)

/-- `FREQ_OK` in the words of R171. -/
theorem freqOk_iff_legal (c : Cfg) : c.freqOk = true ↔ FreqLegal c := Cfg.freqOk_iff c

/-- The divider: at least 1, at most 4095, and the quotient it is defined as (42_symbol_timer.md R172). -/
theorem clkDiv_spec {p : Params} {c : Cfg} (hp : p.legal = true) (hf : c.freqOk = true) :
    clkDiv p c = p.oscHz / (3 * c.freq.toNat) ∧ 1 ≤ clkDiv p c ∧ clkDiv p c ≤ 4095 ∧
      clkDiv p c * (3 * c.freq.toNat) ≤ p.oscHz ∧ p.oscHz < (clkDiv p c + 1) * (3 * c.freq.toNat) := by
  have e : clkDiv p c = p.oscHz / (3 * c.freq.toNat) := by simp [clkDiv, hf]
  have h1 := clkDiv_pos hp hf
  rw [Params.legal_iff] at hp
  have h := (Cfg.freqOk_iff c).1 hf
  refine ⟨e, h1, ?_, ?_, ?_⟩ <;> rw [e]
  · exact le_trans (Nat.div_le_div_left (show 1200000 ≤ 3 * c.freq.toNat by omega) (by omega)) hp.1.2
  · exact Nat.div_mul_le_self _ _
  · exact Nat.lt_mul_of_div_lt (Nat.lt_succ_self _) (by omega)

end Sys2Proof.Machine
end

