-- ==== Sys2Proof/Laws/Engine.lean ====
section
/-! SUPPORT. Everything the engine, an observer and reset can do, said once. -/

namespace Sys2Proof.Machine

/-- The engine's step: nothing, the start of a held command, a word written, a word refused, a word in flight, or completion. -/
theorem engineStep_cases (answer : MemAnswer) (s : State) :
    (engineStep answer s = s ∧ s.fsm ≠ .busy) ∨
    (engineStep answer s = startHeld s ∧ s.fsm = .pending ∧ s.waitRemain = 0) ∨
    (engineStep answer s = wordDone s ∧ answer = .ok ∧ s.fsm = .busy ∧ s.cursor < bufWords s.params s.cfg) ∨
    (engineStep answer s = wordFault s ∧ answer = .error ∧ s.fsm = .busy ∧ s.cursor < bufWords s.params s.cfg) ∨
    (engineStep answer s = { s with inFlight := true } ∧ answer = .noAnswer ∧ s.fsm = .busy ∧
      s.cursor < bufWords s.params s.cfg) ∨
    (engineStep answer s = completeCommand s ∧ s.fsm = .busy ∧ bufWords s.params s.cfg ≤ s.cursor) := by
  cases hf : s.fsm with
  | idle => exact .inl ⟨by simp [engineStep, hf], by simp⟩
  | pending =>
    by_cases hw : s.waitRemain = 0
    · exact .inr (.inl ⟨by simp only [engineStep, hf, if_pos hw], rfl, hw⟩)
    · exact .inl ⟨by simp only [engineStep, hf, if_neg hw], by simp⟩
  | busy =>
    by_cases hc : s.cursor < bufWords s.params s.cfg
    · cases answer with
      | ok => exact .inr (.inr (.inl ⟨by simp [engineStep, hf, hc, wordStep], rfl, rfl, hc⟩))
      | error => exact .inr (.inr (.inr (.inl ⟨by simp [engineStep, hf, hc, wordStep], rfl, rfl, hc⟩)))
      | noAnswer => exact .inr (.inr (.inr (.inr (.inl ⟨by simp [engineStep, hf, hc, wordStep], rfl, rfl, hc⟩))))
    · exact .inr (.inr (.inr (.inr (.inr ⟨by simp [engineStep, hf, hc], rfl, by omega⟩))))

/-- An observer sees the memory's word, or the word in flight at its own address; a free bit is used at most. -/
theorem observedWord_cases (k : BitVec 30) (s : State) :
    ((observedWord k s).1 = s.busWord (k ++ 0#2 : Word).toNat ∨
      (s.inFlight = true ∧ (k ++ 0#2 : Word) = s.curAddr ∧ (observedWord k s).1 = s.curWord)) ∧
    ((observedWord k s).2 = s ∨ (observedWord k s).2 = (takeBool s).2) := by
  unfold observedWord
  dsimp only
  split_ifs with h h2
  · simp only [Bool.and_eq_true, beq_iff_eq] at h
    exact ⟨.inr ⟨h.1, h.2, rfl⟩, .inr rfl⟩
  · exact ⟨.inl rfl, .inr rfl⟩
  · exact ⟨.inl rfl, .inl rfl⟩

/-- An observer changes nothing but what it saw and the count of free values. -/
theorem observeWord_frame (k : BitVec 30) (s : State) :
    observeWord k s = { s with seen := (observeWord k s).seen, freeIx := (observeWord k s).freeIx } := by
  obtain ⟨-, h | h⟩ := observedWord_cases k s <;> simp [observeWord, h, takeBool]

theorem observeByte_frame (a : Word) (s : State) :
    observeByte a s = { s with seen := (observeByte a s).seen, freeIx := (observeByte a s).freeIx } := by
  obtain ⟨-, h | h⟩ := observedWord_cases (a.extractLsb' 2 30) s <;> simp [observeByte, h, takeBool]

/-- At a reset the write in flight lands whole or not at all; nothing else but the count of free values changes. -/
theorem settleInFlight_cases (s : State) :
    (settleInFlight s = s ∧ s.inFlight = false) ∨
    (s.inFlight = true ∧ (settleInFlight s = (takeBool s).2 ∨ settleInFlight s = storeWord s.curAddr s.curWord (takeBool s).2)) := by
  unfold settleInFlight
  split_ifs with h h2
  · exact .inr ⟨h, .inr rfl⟩
  · exact .inr ⟨h, .inl rfl⟩
  · exact .inl ⟨rfl, by simpa using h⟩

/-- Output addresses are multiples of 4, so a word never runs past the top of the bus space. -/
theorem outAddr_toNat (c : Cfg) (k : Nat) : (c.outAddr k).toNat = (4 * (c.outBase.toNat + k)) % 2 ^ 32 := by
  simp only [Cfg.outAddr, Cfg.outBaseWord, BitVec.toNat_add, BitVec.toNat_append, BitVec.toNat_ofNat]
  simp
  omega

theorem outAddr_aligned (c : Cfg) (k : Nat) : (c.outAddr k).toNat % 4 = 0 ∧ (c.outAddr k).toNat + 3 < 2 ^ 32 := by
  rw [outAddr_toNat]
  omega

theorem outBaseWord_toNat (c : Cfg) : c.outBaseWord.toNat = 4 * c.outBase.toNat := by
  have := outAddr_toNat c 0
  have hb := c.outBase.isLt
  simp only [Cfg.outAddr] at this
  simp at this
  omega

theorem settleInFlight_frame (s : State) :
    settleInFlight s = { s with mem := (settleInFlight s).mem, freeIx := (settleInFlight s).freeIx } := by
  obtain ⟨e, -⟩ | ⟨-, e | e⟩ := settleInFlight_cases s <;> rw [e] <;> rfl

theorem settleInFlight_mem (s : State) :
    (settleInFlight s).mem = s.mem ∨
      (s.inFlight = true ∧ (settleInFlight s).mem = s.mem.writeWord s.curAddr.toNat s.curWord) := by
  obtain ⟨e, -⟩ | ⟨h, e | e⟩ := settleInFlight_cases s <;> rw [e]
  · exact .inl rfl
  · exact .inl rfl
  · exact .inr ⟨h, rfl⟩

/-- `CAP_OK` in the words of R157. -/
theorem capOk_iff_holds (p : Params) (c : Cfg) : capOk p c = true ↔ CapacityHolds p c := by
  simp only [capOk, laneFits, CapacityHolds, outBaseWord_toNat, Bool.and_eq_true, Bool.or_eq_true, decide_eq_true_eq,
    Bool.not_eq_true']
  constructor
  · rintro ⟨⟨⟨h0, h1⟩, h2⟩, h3⟩
    refine ⟨fun l hl => ?_, h2, h3⟩
    cases l <;> simp_all
  · rintro ⟨h, h2, h3⟩
    refine ⟨⟨⟨?_, ?_⟩, h2⟩, h3⟩ <;> rw [← Bool.not_eq_true, ← imp_iff_not_or] <;> exact h _

end Sys2Proof.Machine
end

