-- ==== Sys2Proof/Laws/Host.lean ====
section
/-! SUPPORT. Everything a host access and the host's step can do to the block, said once. -/

namespace Sys2Proof.Machine

/-- What one host access does to the block: nothing, a sticky flag, a command, a `STATUS` write, or in `IDLE` a write of a
configuration register, a gamma word or a pixel word. -/
inductive BlockEffect (s : State) : State → Prop
  | same : BlockEffect s s
  | buserr : BlockEffect s (setBuserr s)
  | werr (h : s.fsm ≠ .idle) : BlockEffect s (setWerr s)
  | command (i : Instr) (t : State) (h : exec i s = .next t) : BlockEffect s t
  | status (v : Word) : BlockEffect s (writeStatus v s)
  | config (r : Reg) (v : Word) (h : s.fsm = .idle) (hr : r.locked = true) :
      BlockEffect s { s with cfg := writeCfg r v s.cfg }
  | gammaWord (l : LaneId) (k : Nat) (v : Word) (h : s.fsm = .idle) (hk : k < 64) : BlockEffect s (s.setGammaWord l k v)
  | pixel (l : LaneId) (i : Nat) (v : Word) (h : s.fsm = .idle) (hi : i < s.params.pixCap) : BlockEffect s (s.setPix l i v)

theorem lockedWrite_cases (f : State → State) (s : State) :
    (lockedWrite f s = f s ∧ s.fsm = .idle) ∨ (lockedWrite f s = setWerr s ∧ s.fsm ≠ .idle) := by
  unfold lockedWrite
  split_ifs with h
  · exact .inl ⟨rfl, h⟩
  · exact .inr ⟨rfl, h⟩

/-- The gamma words and pixel words an offset names lie inside their RAMs (20_memory.md R86). -/
theorem placeAt_gamma {n off k : Nat} {l : LaneId} (h : placeAt n off = .gamma l k) : k < 64 := by
  unfold placeAt at h
  split_ifs at h
  · cases hr : regAt off <;> simp [hr] at h
  · simp only [Place.gamma.injEq, gammaBase, LaneId.idx] at h; omega
  · simp only [Place.gamma.injEq, gammaBase, LaneId.idx] at h; omega

theorem placeAt_pix {n off i : Nat} {l : LaneId} (h : placeAt n off = .pix l i) : i < n := by
  unfold placeAt at h
  split_ifs at h with h1 h2 h3 h4 h5 h6 h7 h8
  · cases hr : regAt off <;> simp [hr] at h
  · simp only [Place.pix.injEq, pixBase, LaneId.idx] at h h6; omega
  · simp only [Place.pix.injEq, pixBase, LaneId.idx] at h h8; omega

theorem placeOf_eq {s : State} {off width : Nat} {pl : Place} (h : placeOf s off width = pl) (hne : pl ≠ .unmapped) :
    width = 4 ∧ off % 4 = 0 ∧ placeAt s.params.pixCap off = pl := by
  unfold placeOf at h
  split_ifs at h with hw
  · exact ⟨hw.1, hw.2, h⟩
  · exact absurd h.symm hne

theorem writeReg_effect {r : Reg} {v : Word} {s t : State} (h : writeReg r v s = .next t) : BlockEffect s t := by
  unfold writeReg at h
  split at h
  · exact .command _ _ h
  · simp only [Host.Outcome.next.injEq] at h
    exact h ▸ .status v
  · split_ifs at h with hl <;> simp only [Host.Outcome.next.injEq] at h <;> subst h
    · obtain ⟨e, hi⟩ | ⟨e, hi⟩ := lockedWrite_cases (fun t => { t with cfg := writeCfg r v t.cfg }) s <;> rw [e]
      · exact .config r v hi hl
      · exact .werr hi
    · exact .same

theorem hostWrite_effect {off width : Nat} {v : Word} {s t : State} (h : hostWrite off width v s = .next t) :
    BlockEffect s t := by
  unfold hostWrite at h
  split at h
  · exact writeReg_effect h
  · rename_i l k hp
    have hk := placeAt_gamma (placeOf_eq hp (by simp)).2.2
    simp only [Host.Outcome.next.injEq] at h
    subst h
    obtain ⟨e, hi⟩ | ⟨e, hi⟩ := lockedWrite_cases (fun t => t.setGammaWord l k v) s <;> rw [e]
    · exact .gammaWord l k v hi hk
    · exact .werr hi
  · rename_i l i hp
    have hk := placeAt_pix (placeOf_eq hp (by simp)).2.2
    simp only [Host.Outcome.next.injEq] at h
    subst h
    obtain ⟨e, hi⟩ | ⟨e, hi⟩ := lockedWrite_cases (fun t => t.setPix l i v) s <;> rw [e]
    · exact .pixel l i v hi hk
    · exact .werr hi
  · simp only [Host.Outcome.next.injEq] at h
    exact h ▸ .buserr

theorem hostRead_cases (off width : Nat) (s : State) :
    (hostRead off width s).2 = s ∨
      (placeOf s off width = .unmapped ∧ (hostRead off width s).2 = setBuserr s ∧ (hostRead off width s).1 = 0) := by
  unfold hostRead
  split
  · exact .inl rfl
  · exact .inl rfl
  · exact .inl rfl
  · rename_i hp
    exact .inr ⟨hp, rfl, rfl⟩

/-- Every write is answered with a next state. -/
theorem hostWrite_next (off width : Nat) (v : Word) (s : State) : ∃ t, hostWrite off width v s = .next t := by
  have he : ∀ i, ∃ t, exec i s = .next t := fun i => by cases i <;> exact ⟨_, rfl⟩
  unfold hostWrite writeReg
  repeat' split
  all_goals first | exact he _ | exact ⟨_, rfl⟩

/-- The host's step either makes a write, with the host's place moved on, or leaves the block as it is but for `BUSERR`. -/
theorem hostStep_cases {s t : State} (h : hostStep s = .next t) :
    (∃ off width v, s.host.delay = 0 ∧ s.host.program[s.host.pc]? = some (.wr off width v) ∧
      hostWrite off width v (setHostPc (s.host.pc + 1) s) = .next t) ∨
    t = { s with host := t.host } ∨ t = { setBuserr s with host := t.host } := by
  have hread : ∀ off width pc, setHostPc pc (readInto off width s) = { s with host := (setHostPc pc (readInto off width s)).host } ∨
      setHostPc pc (readInto off width s) = { setBuserr s with host := (setHostPc pc (readInto off width s)).host } := by
    intro off width pc
    obtain e | ⟨-, e, -⟩ := hostRead_cases off width s <;> simp [setHostPc, readInto, e]
  have hread' : ∀ off width, readInto off width s = { s with host := (readInto off width s).host } ∨
      readInto off width s = { setBuserr s with host := (readInto off width s).host } := by
    intro off width
    obtain e | ⟨-, e, -⟩ := hostRead_cases off width s <;> simp [readInto, e]
  unfold hostStep at h
  split_ifs at h with hd
  · simp only [Host.Outcome.next.injEq] at h
    subst h
    exact .inr (.inl rfl)
  · split at h
    · simp only [Host.Outcome.next.injEq] at h
      subst h
      exact .inr (.inl rfl)
    · rename_i st hst
      unfold runStmt at h
      split at h
      · exact .inl ⟨_, _, _, by simpa using hd, hst, h⟩
      · simp only [Host.Outcome.next.injEq] at h
        subst h
        exact .inr (hread _ _ _)
      · simp only [Host.Outcome.next.injEq] at h
        subst h
        split_ifs
        · exact .inr (hread _ _ _)
        · exact .inr (hread' _ _)
      · simp only [Host.Outcome.next.injEq] at h
        subst h
        exact .inr (hread _ _ _)
      · simp only [Host.Outcome.next.injEq] at h
        subst h
        exact .inr (.inl rfl)

theorem hostStep_next (s : State) : ∃ t, hostStep s = .next t := by
  unfold hostStep runStmt
  repeat' split
  all_goals first | exact hostWrite_next _ _ _ _ | exact ⟨_, rfl⟩

/-- The host's step as an effect on the block, the host agent's own fields set aside. -/
theorem hostStep_effect {s t : State} (h : hostStep s = .next t) :
    ∃ h1 h2 u, BlockEffect { s with host := h1 } u ∧ t = { u with host := h2 } := by
  obtain ⟨off, width, v, -, -, hw⟩ | e | e := hostStep_cases h
  · exact ⟨_, t.host, t, hostWrite_effect hw, rfl⟩
  · exact ⟨s.host, t.host, s, .same, e⟩
  · exact ⟨s.host, t.host, setBuserr s, .buserr, e⟩

/-- A host access changes none of the moves fixed. -/
theorem BlockEffect.sched_eq {s t : State} (h : BlockEffect s t) : t.sched = s.sched := by
  cases h with
  | command i t h =>
    obtain e | ⟨e, -, he⟩ | ⟨op, he, -⟩ | ⟨-, -, he⟩ := exec_cases h <;> subst t <;> simp
  | _ => simp

theorem hostStep_sched {s t : State} (h : hostStep s = .next t) : t.sched = s.sched := by
  obtain ⟨h1, h2, u, hb, rfl⟩ := hostStep_effect h
  exact hb.sched_eq

end Sys2Proof.Machine
end

