-- ==== Sys2Proof/Laws/Operands.lean ====
section
/-! SUPPORT. Register words put together and taken apart: what a written field reads back. -/

namespace Sys2Proof.Machine

theorem toNat_append_eq {m n : Nat} (x : BitVec m) (y : BitVec n) : (x ++ y).toNat = x.toNat * 2 ^ n + y.toNat := by
  rw [BitVec.toNat_append, ← Nat.shiftLeft_add_eq_or_of_lt y.isLt, Nat.shiftLeft_eq]

theorem low16_eq (v : Word) : (0#16 ++ v.extractLsb' 0 16 : BitVec (16 + 16)) = v &&& 0x0000FFFF#32 := by
  refine BitVec.eq_of_getLsbD_eq fun i hi => ?_
  simp only [BitVec.getLsbD_append, BitVec.getLsbD_and, BitVec.getLsbD_extractLsb']
  interval_cases i <;> simp

/-- `CTRL` keeps bit 0 of what is written (10_state.md R30). -/
theorem ctrlWord_modeOf (c : Cfg) (v : Word) : ({ c with mode := modeOf v }).ctrlWord = v &&& 1#32 := by
  have : v &&& 1#32 = if v.getLsbD 0 then 1 else 0 := by
    refine BitVec.eq_of_getLsbD_eq fun i hi => ?_
    split <;> simp only [BitVec.getLsbD_and] <;> interval_cases i <;> simp_all
  rw [this]
  unfold Cfg.ctrlWord modeOf
  dsimp only
  split_ifs <;> rfl

/-- `RESET_US` keeps the low half of what is written, made at least 300 (R34). -/
theorem resetUsOf_word (v : Word) :
    (0#16 ++ resetUsOf v : BitVec (16 + 16)) = BitVec.ofNat 32 (max (v &&& 0x0000FFFF#32).toNat 300) := by
  apply BitVec.eq_of_toNat_eq
  rw [← low16_eq]
  have h : (v.extractLsb' 0 16).toNat < 2 ^ 16 := (v.extractLsb' 0 16).isLt
  simp only [resetUsOf, resetUsMin, BitVec.toNat_append, BitVec.toNat_ofNat]
  simp
  omega

theorem resetUsOf_ge (v : Word) : 300 ≤ (resetUsOf v).toNat := by
  have h : (v.extractLsb' 0 16).toNat < 2 ^ 16 := (v.extractLsb' 0 16).isLt
  simp only [resetUsOf, BitVec.toNat_ofNat, resetUsMin]
  rw [Nat.mod_eq_of_lt (by omega)]
  omega

/-- `OUT_BASE` keeps bits 31:2 of what is written (R35). -/
theorem outBase_word (v : Word) : (v.extractLsb' 2 30 ++ 0#2 : BitVec (30 + 2)) = v &&& 0xFFFFFFFC#32 := by
  refine BitVec.eq_of_getLsbD_eq fun i hi => ?_
  simp only [BitVec.getLsbD_append, BitVec.getLsbD_and, BitVec.getLsbD_extractLsb']
  interval_cases i <;> simp

/-- `Lx_LAYOUT` keeps its fields of what is written (R38). -/
theorem layoutWord_setLayout (x : Lane) (v : Word) : (x.setLayout v).layoutWord = v &&& 0x9F1F1F1F#32 := by
  refine BitVec.eq_of_getLsbD_eq fun i hi => ?_
  simp only [Lane.setLayout, Lane.layoutWord, flagBit, BitVec.getLsbD_append, BitVec.getLsbD_and, BitVec.getLsbD_extractLsb',
    BitVec.getLsbD_ofBool]
  interval_cases i <;> simp

/-- `Lx_CTL` keeps its fields of what is written (R39). -/
theorem ctlWord_setCtl (x : Lane) (v : Word) : (x.setCtl v).ctlWord = v &&& 0x000007FF#32 := by
  refine BitVec.eq_of_getLsbD_eq fun i hi => ?_
  simp only [Lane.setCtl, Lane.ctlWord, flagBit, BitVec.getLsbD_append, BitVec.getLsbD_and, BitVec.getLsbD_extractLsb',
    BitVec.getLsbD_ofBool]
  interval_cases i <;> simp

end Sys2Proof.Machine
end

