-- ==== Sys2Proof/Laws/PerInstr.lean ====
section
/-! SUPPORT. Per command: its word matches its row of spec/opcode_table.json, and so does every word that decodes to it. -/

namespace Sys2Proof.Laws

open Sys2Proof

/-- The mask of a command's row (30_encoding.md R91, R94). -/
def rowMask : Instr → Word
  | .nop => 0x0000000F#32
  | .encode => 0x0000000F#32
  | .blank => 0x0000000F#32
  | .armed => 0x0000000F#32
  | .reservedLow _ => 0x0000000C#32
  | .reservedHigh _ => 0x00000008#32

/-- The match of a command's row. -/
def rowMatch : Instr → Word
  | .nop => 0x00000000#32
  | .encode => 0x00000001#32
  | .blank => 0x00000002#32
  | .armed => 0x00000003#32
  | .reservedLow _ => 0x00000004#32
  | .reservedHigh _ => 0x00000008#32

/-- A well-formed command's own word is in its row with the ignored bits 0, and every word decoding to it is in its row. -/
def MatchesRow.Statement (i : Instr) : Prop :=
  i.wellFormed = true →
    encodeWord i &&& rowMask i = rowMatch i ∧ encodeWord i &&& 0xFFFFFFF0#32 = 0x0#32 ∧
      ∀ w : Word, decodeWord w = i → w &&& rowMask i = rowMatch i

/-- A word that decodes to a command has that command's word in its low four bits. -/
theorem and_low4_of_decodeWord {w : Word} {i : Instr} (h : decodeWord w = i) : w &&& 0x0000000F#32 = encodeWord i := by
  rw [← h, encodeWord, decodeWord, (decodeOp_spec _).1, and_low4]

theorem matchesRow_of {i : Instr} (hm : 0x0000000F#32 &&& rowMask i = rowMask i) (h0 : encodeWord i &&& rowMask i = rowMatch i)
    (h1 : encodeWord i &&& 0xFFFFFFF0#32 = 0x0#32) : MatchesRow.Statement i := by
  refine fun _ => ⟨h0, h1, fun w hw => ?_⟩
  rw [← hm, ← BitVec.and_assoc, and_low4_of_decodeWord hw, h0]

theorem MatchesRow.nop : MatchesRow.Statement .nop := matchesRow_of (by decide) (by decide) (by decide)

theorem MatchesRow.encode : MatchesRow.Statement .encode := matchesRow_of (by decide) (by decide) (by decide)

theorem MatchesRow.blank : MatchesRow.Statement .blank := matchesRow_of (by decide) (by decide) (by decide)

theorem MatchesRow.armed : MatchesRow.Statement .armed := matchesRow_of (by decide) (by decide) (by decide)

theorem MatchesRow.reservedLow (op : BitVec 4) : MatchesRow.Statement (.reservedLow op) := fun h =>
  have key : ∀ op : BitVec 4, (Instr.reservedLow op).wellFormed = true →
      encodeWord (.reservedLow op) &&& 0x0000000C#32 = 0x00000004#32 ∧ encodeWord (.reservedLow op) &&& 0xFFFFFFF0#32 = 0x0#32 := by
    decide
  matchesRow_of (i := .reservedLow op) (by decide +revert) (key op h).1 (key op h).2 h

theorem MatchesRow.reservedHigh (op : BitVec 4) : MatchesRow.Statement (.reservedHigh op) := fun h =>
  have key : ∀ op : BitVec 4, (Instr.reservedHigh op).wellFormed = true →
      encodeWord (.reservedHigh op) &&& 0x00000008#32 = 0x00000008#32 ∧
        encodeWord (.reservedHigh op) &&& 0xFFFFFFF0#32 = 0x0#32 := by
    decide
  matchesRow_of (i := .reservedHigh op) (by decide +revert) (key op h).1 (key op h).2 h

end Sys2Proof.Laws
end

