-- ==== Sys2Proof/Laws/Window.lean ====
section
/-! SUPPORT. The address map of the window (20_memory.md R86), both ways: what each offset names, and the offset of what is named. -/

namespace Sys2Proof.Machine

theorem regAt_offset {off : Nat} {r : Reg} (h : regAt off = some r) : r.offset = off := by
  unfold regAt at h
  split at h <;> simp only [Option.some.injEq, reduceCtorEq] at h <;> subst h <;> rfl

/-- What an aligned mapped offset names, with the offset in terms of it. -/
theorem placeAt_cases {n off : Nat} {p : Place} (h : placeAt n off = p) (hu : p ≠ .unmapped) (h4 : off % 4 = 0) :
    (∃ r, p = .reg r ∧ regAt off = some r ∧ r.offset = off) ∨
    (∃ l k, p = .gamma l k ∧ k < 64 ∧ off = gammaBase l + 4 * k) ∨
    (∃ l i, p = .pix l i ∧ i < n ∧ off = pixBase l + 4 * i) := by
  subst h
  cases hp : placeAt n off with
  | unmapped => exact absurd hp hu
  | reg r =>
    refine .inl ⟨r, rfl, ?_⟩
    unfold placeAt at hp
    split_ifs at hp
    cases hr : regAt off with
    | none => simp [hr] at hp
    | some x =>
      simp only [hr, Place.reg.injEq] at hp
      subst hp
      exact ⟨rfl, regAt_offset hr⟩
  | gamma l k =>
    refine .inr (.inl ⟨l, k, rfl, placeAt_gamma hp, ?_⟩)
    unfold placeAt at hp
    split_ifs at hp
    · cases hr : regAt off <;> simp [hr] at hp
    all_goals
      simp only [Place.gamma.injEq] at hp
      obtain ⟨rfl, rfl⟩ := hp
      simp only [gammaBase, LaneId.idx]
      omega
  | pix l k =>
    refine .inr (.inr ⟨l, k, rfl, placeAt_pix hp, ?_⟩)
    unfold placeAt at hp
    split_ifs at hp
    · cases hr : regAt off <;> simp [hr] at hp
    all_goals
      simp only [Place.pix.injEq] at hp
      obtain ⟨rfl, rfl⟩ := hp
      simp only [pixBase, LaneId.idx]
      omega

/-- The offset of each pixel word names it. -/
theorem placeAt_pixBase {p : Params} (hp : p.legal = true) (l : LaneId) {i : Nat} (hi : i < p.pixCap) :
    placeAt p.pixCap (0x10000 + 0x10000 * l.idx + 4 * i) = .pix l i := by
  have hp := ((Params.legal_iff p).1 hp).2
  generalize ho : 0x10000 + 0x10000 * l.idx + 4 * i = off
  unfold placeAt pixBase
  cases l
  · have ho : 0x10000 + 4 * i = off := ho
    rw [if_neg (by omega), if_neg (by omega), if_neg (by omega), if_neg (by omega), if_pos (by omega),
      if_pos (show off < 0x10000 + 0x10000 * LaneId.l0.idx + 4 * p.pixCap by simp only [LaneId.idx]; omega)]
    exact congrArg _ (show (off - (0x10000 + 0x10000 * 0)) / 4 = i by omega)
  · have ho : 0x20000 + 4 * i = off := ho
    rw [if_neg (by omega), if_neg (by omega), if_neg (by omega), if_neg (by omega), if_neg (by omega), if_pos (by omega),
      if_pos (show off < 0x10000 + 0x10000 * LaneId.l1.idx + 4 * p.pixCap by simp only [LaneId.idx]; omega)]
    exact congrArg _ (show (off - (0x10000 + 0x10000 * 1)) / 4 = i by omega)

/-- The offset of each gamma word names it. -/
theorem placeAt_gammaBase (n : Nat) (l : LaneId) {k : Nat} (hk : k < 64) :
    placeAt n (0x400 + 0x100 * l.idx + 4 * k) = .gamma l k := by
  generalize ho : 0x400 + 0x100 * l.idx + 4 * k = off
  unfold placeAt gammaBase
  cases l
  · have ho : 0x400 + 4 * k = off := ho
    rw [if_neg (by omega), if_pos (by omega)]
    exact congrArg _ (show (off - (0x400 + 0x100 * 0)) / 4 = k by omega)
  · have ho : 0x500 + 4 * k = off := ho
    rw [if_neg (by omega), if_neg (by omega), if_pos (by omega)]
    exact congrArg _ (show (off - (0x400 + 0x100 * 1)) / 4 = k by omega)

/-- The mapped offsets are those that R86 lists. -/
theorem windowMapped_iff {p : Params} (hp : p.legal = true) {off : Nat} (h4 : off % 4 = 0) :
    windowMapped p off ↔ placeAt p.pixCap off ≠ .unmapped := by
  constructor
  · rintro (h | ⟨h1, h2⟩ | ⟨h1, h2⟩ | ⟨h1, h2⟩)
    · have key : ∃ r, regAt off = some r ∧ off < 0x400 := by fin_cases h <;> exact ⟨_, rfl, by decide⟩
      obtain ⟨r, hr, hlt⟩ := key
      simp [placeAt, hr, hlt]
    · by_cases h : off < 0x500
      · obtain ⟨k, rfl⟩ : ∃ k, off = 0x400 + 0x100 * LaneId.l0.idx + 4 * k :=
          ⟨(off - 0x400) / 4, by simp only [LaneId.idx]; omega⟩
        rw [placeAt_gammaBase _ _ (by simp only [LaneId.idx] at h; omega)]
        simp
      · obtain ⟨k, rfl⟩ : ∃ k, off = 0x400 + 0x100 * LaneId.l1.idx + 4 * k :=
          ⟨(off - 0x500) / 4, by simp only [LaneId.idx]; omega⟩
        rw [placeAt_gammaBase _ _ (by simp only [LaneId.idx] at h2; omega)]
        simp
    · obtain ⟨k, rfl⟩ : ∃ k, off = 0x10000 + 0x10000 * LaneId.l0.idx + 4 * k :=
        ⟨(off - 0x10000) / 4, by simp only [LaneId.idx]; omega⟩
      rw [placeAt_pixBase hp _ (by simp only [LaneId.idx] at h2; omega)]
      simp
    · obtain ⟨k, rfl⟩ : ∃ k, off = 0x10000 + 0x10000 * LaneId.l1.idx + 4 * k :=
        ⟨(off - 0x20000) / 4, by simp only [LaneId.idx]; omega⟩
      rw [placeAt_pixBase hp _ (by simp only [LaneId.idx] at h2; omega)]
      simp
  · intro h
    rcases placeAt_cases rfl h h4 with ⟨r, -, -, rfl⟩ | ⟨l, k, -, hk, rfl⟩ | ⟨l, i, -, hk, rfl⟩
    · left
      cases r <;> first | (rename_i l; cases l <;> simp [Reg.offset, LaneId.idx]) | simp [Reg.offset]
    · right; left; cases l <;> simp only [gammaBase, LaneId.idx] <;> omega
    · right; right; cases l <;> simp only [pixBase, LaneId.idx] <;> omega

/-- A write statement is the host's write, with the host past the statement. -/
theorem hostStep_wr {s : State} {off n : Nat} {v : Word} (hd : s.host.delay = 0)
    (h : s.host.program[s.host.pc]? = some (.wr off n v)) :
    hostStep s = hostWrite off n v (setHostPc (s.host.pc + 1) s) := by
  simp [hostStep, hd, h, runStmt]

/-- Everything the host's step can be, with the write statement behind each change of the block: a command, a `STATUS` write, in
`IDLE` a write of the configuration, a gamma word or a pixel word, and otherwise nothing but `BUSERR` or `WERR`. -/
theorem hostStep_full {s t : State} (h : hostStep s = .next t) :
    (∃ v, s.host.delay = 0 ∧ s.host.program[s.host.pc]? = some (.wr 8 4 v) ∧
      exec (decodeWord v) (setHostPc (s.host.pc + 1) s) = .next t) ∨
    (∃ v, s.host.delay = 0 ∧ s.host.program[s.host.pc]? = some (.wr 4 4 v) ∧
      t = writeStatus v (setHostPc (s.host.pc + 1) s)) ∨
    (∃ c, s.fsm = .idle ∧ t = { s with cfg := c, host := t.host }) ∨
    (∃ l k v, s.fsm = .idle ∧ k < 64 ∧ s.host.delay = 0 ∧ s.host.program[s.host.pc]? = some (.wr (gammaBase l + 4 * k) 4 v) ∧
      t = (setHostPc (s.host.pc + 1) s).setGammaWord l k v) ∨
    (∃ l i v, s.fsm = .idle ∧ i < s.params.pixCap ∧ s.host.delay = 0 ∧
      s.host.program[s.host.pc]? = some (.wr (pixBase l + 4 * i) 4 v) ∧ t = (setHostPc (s.host.pc + 1) s).setPix l i v) ∨
    t = { s with host := t.host } ∨ t = { setBuserr s with host := t.host } ∨
    (s.fsm ≠ .idle ∧ t = { setWerr s with host := t.host }) := by
  obtain ⟨off, w, v, hd, hp, hw⟩ | h | h := hostStep_cases h
  · by_cases hu : placeOf (setHostPc (s.host.pc + 1) s) off w = .unmapped
    · unfold hostWrite at hw
      rw [hu] at hw
      simp only [Host.Outcome.next.injEq] at hw
      subst hw
      exact .inr (.inr (.inr (.inr (.inr (.inr (.inl rfl))))))
    obtain ⟨rfl, h4, hpl⟩ := placeOf_eq rfl hu
    unfold hostWrite at hw
    rcases placeAt_cases hpl hu h4 with ⟨r, e, -, hr⟩ | ⟨l, k, e, hk, hoff⟩ | ⟨l, i, e, hk, hoff⟩ <;> rw [e] at hw
    · simp only [writeReg] at hw
      split at hw
      · simp only [Reg.offset] at hr
        subst hr
        exact .inl ⟨v, hd, hp, hw⟩
      · simp only [Reg.offset] at hr
        subst hr
        simp only [Host.Outcome.next.injEq] at hw
        exact .inr (.inl ⟨v, hd, hp, hw.symm⟩)
      · split_ifs at hw <;> simp only [Host.Outcome.next.injEq] at hw <;> subst hw
        · rcases lockedWrite_cases (fun t => { t with cfg := writeCfg r v t.cfg }) (setHostPc (s.host.pc + 1) s) with
            ⟨e, hi⟩ | ⟨e, hi⟩ <;> rw [e]
          · exact .inr (.inr (.inl ⟨_, hi, rfl⟩))
          · exact .inr (.inr (.inr (.inr (.inr (.inr (.inr ⟨hi, rfl⟩))))))
        · exact .inr (.inr (.inr (.inr (.inr (.inl rfl)))))
    · simp only [Host.Outcome.next.injEq] at hw
      subst hw
      rcases lockedWrite_cases (fun t => t.setGammaWord l k v) (setHostPc (s.host.pc + 1) s) with ⟨e, hi⟩ | ⟨e, hi⟩ <;> rw [e]
      · exact .inr (.inr (.inr (.inl ⟨l, k, v, hi, hk, hd, hoff ▸ hp, rfl⟩)))
      · exact .inr (.inr (.inr (.inr (.inr (.inr (.inr ⟨hi, rfl⟩))))))
    · simp only [Host.Outcome.next.injEq] at hw
      subst hw
      rcases lockedWrite_cases (fun t => t.setPix l i v) (setHostPc (s.host.pc + 1) s) with ⟨e, hi⟩ | ⟨e, hi⟩ <;> rw [e]
      · exact .inr (.inr (.inr (.inr (.inl ⟨l, i, v, hi, hk, hd, hoff ▸ hp, rfl⟩))))
      · exact .inr (.inr (.inr (.inr (.inr (.inr (.inr ⟨hi, rfl⟩))))))
  · exact .inr (.inr (.inr (.inr (.inr (.inl h)))))
  · exact .inr (.inr (.inr (.inr (.inr (.inr (.inl h))))))

end Sys2Proof.Machine
end

