-- ==== Sys2Proof/Laws/Step.lean ====
section
/-! SUPPORT. One step is one move; the block as the next move finds it is the block before it. -/

namespace Sys2Proof.Machine

theorem step_eq (s : State) : step s = doMove s.nextMove s.popMove := rfl

/-- A fixed move is made next. -/
theorem nextMove_cons {s : State} {m : Move} {ms : List Move} (h : s.sched = m :: ms) : s.nextMove = m := by
  simp [State.nextMove, h]

theorem popMove_cons {s : State} {m : Move} {ms : List Move} (h : s.sched = m :: ms) : s.popMove = { s with sched := ms } := by
  simp [State.popMove, h]

/-- Picking a move changes nothing but the moves fixed and the count of free values. -/
theorem popMove_frame (s : State) : s.popMove = { s with sched := s.popMove.sched, freeIx := s.popMove.freeIx } := by
  unfold State.popMove
  split <;> rfl

theorem freeRound_ne_nil (ix : Nat) : freeRound ix ≠ [] := by simp [freeRound]

/-- Every free round has a move of the engine in it. -/
theorem engine_mem_freeRound (ix : Nat) : Move.engine (Config.freeAnswer ix) ∈ freeRound ix := by simp [freeRound]

/-- Every free round has a tick in it. -/
theorem tick_mem_freeRound (ix : Nat) : Move.tick ∈ freeRound ix := by simp [freeRound]

/-- The moves as they will be made from a state: those fixed, or a fresh free round. -/
theorem nextMove_cons_popMove (s : State) :
    s.nextMove :: s.popMove.sched = if s.sched = [] then freeRound s.freeIx else s.sched := by
  unfold State.nextMove State.popMove
  split
  · rename_i h; simp [h]
  · rename_i h
    obtain ⟨m, ms, hm⟩ := List.exists_cons_of_ne_nil (freeRound_ne_nil s.freeIx)
    simp [h, hm]

/-- Every move is answered with a next state. -/
theorem doMove_next (m : Move) (s : State) : ∃ t, doMove m s = .next t := by
  cases m
  case host => exact hostStep_next s
  all_goals exact ⟨_, rfl⟩

/-- No move changes the moves fixed after it. -/
theorem doMove_sched {m : Move} {s t : State} (h : doMove m s = .next t) : t.sched = s.sched := by
  cases m <;> simp only [doMove, Host.Outcome.next.injEq] at h
  case host => exact hostStep_sched h
  all_goals subst h
  case engine a => obtain ⟨e, -⟩ | ⟨e, -⟩ | ⟨e, -⟩ | ⟨e, -⟩ | ⟨e, -⟩ | ⟨e, -⟩ := engineStep_cases a s <;> rw [e] <;> rfl
  case tick => rfl
  case reset => rw [resetBlock, clearBlock_sched, settleInFlight_frame]
  case observeWord k => rw [observeWord_frame]
  case observeByte a => rw [observeByte_frame]
  case outsideWrite a v => rfl

/-- A step uses up the move it makes and changes no move fixed after it. -/
theorem step_sched {s t : State} (h : step s = .next t) : t.sched = s.popMove.sched := doMove_sched h

/-- A run begins with its first step. -/
theorem core_run_succ {s t : State} (h : step s = .next t) (k : Nat) : core.run (k + 1) s = core.run k t := by
  have h' : core.step s = .next t := h
  simp only [Host.Core.run, h']

theorem movesOf_succ {s t : State} (h : step s = .next t) (k : Nat) : movesOf (k + 1) s = s.nextMove :: movesOf k t := by
  simp [movesOf, h]

/-- `out_word` depends on the configuration and the RAM contents alone. -/
theorem outWord_congr {s t : State} (hc : t.cfg = s.cfg) (hd : t.draw = s.draw) (hp : t.pixRam = s.pixRam)
    (hg : t.gammaRam = s.gammaRam) (op : CurOp) (c : Nat) : outWord t op c = outWord s op c := by
  have h1 : ∀ l i, t.pix l i = s.pix l i := fun l i => by simp [State.pix, hd, hp]
  have h2 : ∀ l i, t.gamma l i = s.gamma l i := fun l i => by simp [State.gamma, hd, hg]
  have h3 : ∀ l i j, colourByte t op l i j = colourByte s op l i j := fun l i j => by
    cases op <;> simp [colourByte, adjust, brightOf, gammaOf, h1, h2, hc]
  have h4 : ∀ l i, ledSlots t op l i = ledSlots s op l i := fun l i => by
    simp only [ledSlots, ledBytes, hc, show colourByte t op l i = colourByte s op l i from funext (h3 l i)]
  have h5 : ∀ l, slotStream t op l = slotStream s op l := fun l => by
    simp only [slotStream, hc, show ledSlots t op l = ledSlots s op l from funext (h4 l)]
  simp only [outWord, hc, h5]

/-- Output words of one buffer lie at different addresses, none overlapping another. -/
theorem outAddr_disjoint {p : Params} {c : Cfg} (h : capOk p c = true) {j k : Nat} (hj : j < bufWords p c)
    (hk : k < bufWords p c) (hne : j ≠ k) :
    (c.outAddr j).toNat + 4 ≤ (c.outAddr k).toNat ∨ (c.outAddr k).toNat + 4 ≤ (c.outAddr j).toNat := by
  have hb := capOk_bounds h
  rw [outBaseWord_toNat] at hb
  rw [outAddr_toNat, outAddr_toNat]
  omega

/-- One step, by the agent that moves. -/
theorem step_cases {s t : State} (h : step s = .next t) :
    (s.nextMove = .host ∧ hostStep s.popMove = .next t) ∨
    (∃ a, s.nextMove = .engine a ∧ t = engineStep a s.popMove) ∨
    (s.nextMove = .tick ∧ t = usTick s.popMove) ∨
    (s.nextMove = .reset ∧ t = resetBlock s.popMove) ∨
    (∃ k, s.nextMove = .observeWord k ∧ t = observeWord k s.popMove) ∨
    (∃ a, s.nextMove = .observeByte a ∧ t = observeByte a s.popMove) ∨
    (∃ a v, s.nextMove = .outsideWrite a v ∧ t = outsideWrite a v s.popMove) := by
  rw [step_eq] at h
  cases hm : s.nextMove <;> rw [hm] at h <;> simp only [doMove, Host.Outcome.next.injEq] at h <;> simp_all

theorem pixRam_congr {s t : State} (h0 : t.pix0 = s.pix0) (h1 : t.pix1 = s.pix1) : t.pixRam = s.pixRam := by
  funext l
  cases l <;> assumption

theorem gammaRam_congr {s t : State} (h0 : t.gamma0 = s.gamma0) (h1 : t.gamma1 = s.gamma1) : t.gammaRam = s.gammaRam := by
  funext l
  cases l <;> assumption

theorem popMove_outWord (s : State) (op : CurOp) (c : Nat) : outWord s.popMove op c = outWord s op c :=
  outWord_congr (by simp) (by simp) (pixRam_congr (by simp) (by simp)) (gammaRam_congr (by simp) (by simp)) op c

theorem popMove_curAddr (s : State) : s.popMove.curAddr = s.cfg.outAddr s.cursor := by simp [State.curAddr]

theorem popMove_curWord (s : State) : s.popMove.curWord = outWord s s.curOp s.cursor := by
  simp [State.curWord, popMove_outWord]

/-- While the buffer fits the bus space, output word `c` lies at `OUT_BASE + 4·c`, which does not wrap. -/
theorem outAddr_of_capOk {p : Params} {c : Cfg} (h : capOk p c = true) {k : Nat} (hk : k < bufWords p c) :
    (c.outAddr k).toNat = 4 * (c.outBase.toNat + k) := by
  have hb := capOk_bounds h
  rw [outBaseWord_toNat] at hb
  rw [outAddr_toNat]
  omega

end Sys2Proof.Machine
end

