-- ==== Sys2Proof/Laws/Symbols.lean ====
section
/-! SUPPORT. Slot streams: the length and the slots of a concatenation of equal pieces, and the bits of a packed word. -/

namespace Sys2Proof.Machine

/-- A concatenation of `n` pieces of length `m` has `n · m` elements. -/
theorem length_flatMap_range {α : Type} (f : Nat → List α) (n m : Nat) (h : ∀ i, (f i).length = m) :
    ((List.range n).flatMap f).length = n * m := by
  induction n with
  | zero => simp
  | succ n ih => simp [List.range_succ, List.flatMap_append, ih, h, Nat.succ_mul]

/-- Element `k` of a concatenation of pieces of length `m` is element `k mod m` of piece `k div m`. -/
theorem getD_flatMap_range {α : Type} (f : Nat → List α) (n m k : Nat) (d : α) (h : ∀ i, (f i).length = m) (hk : k < n * m) :
    ((List.range n).flatMap f).getD k d = (f (k / m)).getD (k % m) d := by
  induction n with
  | zero => simp at hk
  | succ n ih =>
    have hlen := length_flatMap_range f n m h
    have hm : 0 < m := Nat.pos_of_ne_zero (by rintro rfl; simp at hk)
    simp only [List.range_succ, List.flatMap_append, List.flatMap_cons, List.flatMap_nil, List.append_nil]
    by_cases hlt : k < n * m
    · rw [List.getD_append _ _ _ _ (by omega), ih hlt]
    · rw [List.getD_append_right _ _ _ _ (by omega), hlen]
      have hdiv : k / m = n := Nat.div_eq_of_lt_le (by omega) (by simpa [Nat.succ_mul] using hk)
      have hmod : k % m = k - n * m := by
        have := Nat.div_add_mod k m
        rw [hdiv, Nat.mul_comm] at this
        omega
      rw [hdiv, hmod]

@[simp] theorem symbolSlots_length (b : Bool) : (symbolSlots b).length = 3 := rfl

@[simp] theorem byteSlots_length (x : Byte) : (byteSlots x).length = 24 := rfl

/-- Slot `n` of a byte: 1, then the data bit `7 - n div 3`, then 0 (41_symbol_packing.md R142, R143). -/
theorem byteSlots_getD (x : Byte) (n : Nat) (h : n < 24) :
    (byteSlots x).getD n false = (symbolSlots (x.getLsbD (7 - n / 3))).getD (n % 3) false :=
  getD_flatMap_range _ 8 3 n false (fun _ => rfl) (by omega)

theorem ledSlots_eq (s : State) (op : CurOp) (l : LaneId) (i : Nat) :
    ledSlots s op l i = (List.range (s.cfg.lane l).cpp).flatMap fun j => byteSlots (colourByte s op l i j) := by
  simp [ledSlots, ledBytes, List.flatMap_map]

@[simp] theorem ledSlots_length (s : State) (op : CurOp) (l : LaneId) (i : Nat) :
    (ledSlots s op l i).length = (s.cfg.lane l).cpp * 24 := by
  rw [ledSlots_eq]
  exact length_flatMap_range _ _ _ fun _ => rfl

theorem Lane.cpp_le (x : Lane) : x.cpp ≤ 4 := by
  unfold Lane.cpp
  split <;> decide

/-- Bit `j` of packed slots is slot `n - 1 - j`. -/
theorem packSlots_testBit (f : Nat → Bool) (n j : Nat) :
    (packSlots f n).testBit j = (decide (j < n) && f (n - 1 - j)) := by
  induction n generalizing j with
  | zero => simp [packSlots]
  | succ n ih =>
    unfold packSlots
    cases j with
    | zero =>
      cases h : f n <;> simp [Nat.testBit_zero, h, Nat.add_mod]
    | succ j =>
      rw [Nat.testBit_succ, show (2 * packSlots f n + (f n).toNat) / 2 = packSlots f n by
        have : (f n).toNat ≤ 1 := by cases f n <;> simp
        omega, ih]
      simp only [Nat.add_lt_add_iff_right]
      congr 2
      omega

/-- A lane word's bits from the top down are its slots in order. -/
theorem laneWord_getLsbD (str : List Bool) (w j : Nat) :
    (laneWord str w).getLsbD j = (decide (j < 32) && slotAt str (32 * w + (31 - j))) := by
  simp only [laneWord, BitVec.getLsbD_ofNat, packSlots_testBit]
  by_cases h : j < 32 <;> simp [h]

theorem invWord_getLsbD (inv : Bool) (v : Word) (j : Nat) (h : j < 32) :
    (invWord inv v).getLsbD j = xor inv (v.getLsbD j) := by
  cases inv
  · simp [invWord]
  · have : (0xFFFFFFFF#32).getLsbD j = true := by
      rw [show (0xFFFFFFFF#32) = BitVec.allOnes 32 by decide, BitVec.getLsbD_allOnes, decide_eq_true h]
    simp only [invWord, if_true, BitVec.getLsbD_xor, this, Bool.true_xor, Bool.xor_true]

end Sys2Proof.Machine
end

