-- ==== Sys2Proof/Tests/Slice0.lean ====
section
/-! SUPPORT. Tests, their expected results worked out in spec/95_test_vectors.md (V-...) or from the rule cited, and for each statement
with hypotheses a named state and operands that meet them (`meets_...`). -/

namespace Sys2Proof.Tests

open Sys2Proof.Machine

/-! ### Small states -/

/-- Lane 0 of V-C2's legal configuration: one RGB LED. -/
def oneLed : Lane := { Lane.reset with count := 1, en := true }

/-- V-C2's legal configuration (SINGLE, 800 kHz, `OUT_CAP = 26`) with `OUT_BASE = 0x00100000`. -/
def cfg : Cfg := { Cfg.reset with mode := .single, freq := 800000, outBase := 0x40000, outCap := 26, lane0 := oneLed }

/-- IDLE with that configuration, `PIX[0][0] = 0x00FF0000` and `GAMMA[0][0x80..0x83]` of V-P4. -/
def idle : State :=
  { State.reset with
    params := { oscHz := 19200000, pixCap := 1024 }
    cfg := cfg
    armWaitUs := 347
    done := true
    pix0 := [(0, 0x00FF0000)]
    gamma0 := [(0x80, 0x40), (0x81, 0x41), (0x82, 0x42), (0x83, 0x43)]
    curOp := .encode }

/-- An ENCODE held with 10 microseconds to wait. -/
def pending : State := { idle with fsm := .pending, waitRemain := 10, done := false }

/-- An ENCODE running, at word `c`. -/
def busyAt (c : Nat) : State := { idle with fsm := .busy, cursor := c, done := false }

/-- The host about to run one statement, and to move next. -/
def withStmt (st : Stmt) (s : State) : State := { s with host := { s.host with program := [st], pc := 0 }, sched := [.host] }

/-- The next move fixed. -/
def withMove (m : Move) (s : State) : State := { s with sched := [m] }

/-- A part of the next state, if there is one. -/
def look {α : Type} (r : Result) (f : State → α) : Option α :=
  match r with
  | .next t => some (f t)
  | .fault _ => none
  | .refused _ => none

/-! ### Well-formedness refuses ill-formed terms -/

theorem test_reservedLow_refuses_encode_opcode : (Instr.reservedLow 0x1).wellFormed = false := by decide
theorem test_reservedLow_refuses_high_opcode : (Instr.reservedLow 0xC).wellFormed = false := by decide
theorem test_reservedHigh_refuses_low_opcode : (Instr.reservedHigh 0x7).wellFormed = false := by decide
theorem test_reservedHigh_refuses_nop_opcode : (Instr.reservedHigh 0x0).wellFormed = false := by decide

/-! ### Words written out from R91's encoding, and V-C1 -/

theorem test_decode_nop : decode [0x00, 0x00, 0x00, 0x00] = .ok (.nop, []) := by decide
theorem test_decode_nop_ignored_bits : decode [0x10, 0x00, 0x00, 0x00] = .ok (.nop, []) := by decide
theorem test_decode_encode : decode [0x01, 0x00, 0x00, 0x00] = .ok (.encode, []) := by decide
theorem test_decode_encode_ignored_bits : decode [0xF1, 0xFF, 0xFF, 0xFF, 0x02] = .ok (.encode, [0x02]) := by decide
theorem test_decode_blank : decode [0x02, 0x00, 0x00, 0x00] = .ok (.blank, []) := by decide
theorem test_decode_armed : decode [0x73, 0x56, 0x34, 0x12] = .ok (.armed, []) := by decide
theorem test_decode_reserved_low_ends :
    decode [0x04, 0, 0, 0] = .ok (.reservedLow 0b0100, []) ∧ decode [0x07, 0, 0, 0] = .ok (.reservedLow 0b0111, []) := by decide
theorem test_decode_reserved_high_ends :
    decode [0x08, 0, 0, 0] = .ok (.reservedHigh 0b1000, []) ∧ decode [0x0F, 0, 0, 0] = .ok (.reservedHigh 0b1111, []) := by
  decide
theorem test_decode_refuses_three_bytes : decode [0x01, 0x00, 0x00] = .error .tooShort := by decide
theorem test_encode_words :
    encodeWord .nop = 0x00000000 ∧ encodeWord .encode = 0x00000001 ∧ encodeWord .blank = 0x00000002 ∧
      encodeWord .armed = 0x00000003 ∧ encodeWord (.reservedLow 6) = 0x00000006 ∧
      encodeWord (.reservedHigh 9) = 0x00000009 := by decide
theorem test_decodeTableWord : decodeTableWord 32 0x12345673 = some .armed ∧ decodeTableWord 8 0x101 = some .encode := by decide

/-! ### One command as the first step after reset (V-C2, first rows) -/

theorem test_nop_after_reset : look (step (State.reset.withFetchWord 32 0x0)) (·.err) = some .none := by decide
theorem test_encode_after_reset :
    look (step (State.reset.withFetchWord 32 0x1)) (fun t => (t.err, t.fsm, t.done)) = some (.illegalFreq, .idle, false) := by
  decide
theorem test_blank_after_reset : look (step (State.reset.withFetchWord 32 0x2)) (·.err) = some .illegalFreq := by decide
theorem test_armed_after_reset :
    look (step (State.reset.withFetchWord 32 0x3)) (fun t => (t.err, t.waitRemain)) = some (.none, 0) := by decide
theorem test_reservedLow_after_reset : look (step (State.reset.withFetchWord 32 0x4)) (·.err) = some .badCmd := by decide
theorem test_reservedHigh_after_reset : look (step (State.reset.withFetchWord 32 0x9)) (·.err) = some .badCmd := by decide

/-! ### Commands (V-C2) -/

theorem test_encode_accepted :
    look (exec .encode idle) (fun t => (t.fsm, t.cursor, t.done, t.curOp)) = some (.busy, 0, false, .encode) := by decide
theorem test_encode_held :
    look (exec .encode { idle with waitRemain := 10 }) (fun t => (t.fsm, t.done, t.waitRemain)) = some (.pending, false, 10) := by
  decide
theorem test_blank_out_of_memory :
    look (exec .blank { idle with cfg := { cfg with outCap := 25 } }) (fun t => (t.err, t.fsm, t.done)) =
      some (.outOfMemory, .idle, true) := by decide
theorem test_blank_frequency_first :
    look (exec .blank { idle with cfg := { cfg with freq := 900000, outCap := 0 } }) (·.err) = some .illegalFreq := by decide
theorem test_armed_reloads : look (exec .armed { idle with waitRemain := 200 }) (·.waitRemain) = some 347 := by decide
theorem test_armed_busy_while_pending :
    look (exec .armed pending) (fun t => (t.err, t.waitRemain, t.fsm)) = some (.cmdBusy, 10, .pending) := by decide
theorem test_reserved_decodes_before_busy :
    look (hostWrite 0x008 4 0x9 pending) (fun t => (t.err, t.fsm)) = some (.badCmd, .pending) := by decide

/-! ### Pixel pipeline, symbols, sizes (V-P1, V-P2, V-P4, V-K1, V-K6, V-K7, V-K9, V-T2, V-T5) -/

theorem test_extract : extractByte 0x11223344 4 = 0x34 ∧ extractByte 0xFFFFFFFF 25 = 0x7F ∧ extractByte 0x80000000 31 = 0x01 := by
  decide
theorem test_brightness : scaleByte 50 200 = 39 ∧ scaleByte 254 254 = 253 ∧ scaleByte 254 1 = 0 := by decide
theorem test_gamma_before_brightness :
    adjust { idle with cfg := { cfg with lane0 := { oneLed with gammaEn := true, bright := 128 } } } .l0 0x82 = 0x21 := by decide
theorem test_byte_slots :
    byteSlots 0xA5 = [true, true, false, true, false, false, true, true, false, true, false, false, true, false, false, true, true,
      false, true, false, false, true, true, false] := by decide
theorem test_out_words : (List.range 4).map (outWord idle .encode) = [0xDB6DB692, 0x49249249, 0x24000000, 0x00000000] := by decide
theorem test_out_words_inverted :
    (List.range 4).map (outWord { idle with cfg := { cfg with lane0 := { oneLed with inv := true } } } .encode) =
      [0x2492496D, 0xB6DB6DB6, 0xDBFFFFFF, 0xFFFFFFFF] := by decide
theorem test_out_words_dual :
    (List.range 4).map (outWord { idle with cfg := { cfg with mode := .dual } } .encode) =
      [0xDB6DB692, 0x00000000, 0x49249249, 0x00000000] := by decide
theorem test_sizes :
    bufWords idle.params cfg = 26 ∧ xferBytes idle.params cfg = 104 ∧ waitUs idle.params cfg = 347 ∧
      resetBits idle.params cfg = 720 ∧ clkDiv idle.params cfg = 8 := by decide
theorem test_largest_oscillator :
    (let p : Params := { oscHz := 4915199999, pixCap := 1024 }
     let c : Cfg := { cfg with lane0 := { oneLed with count := 30 } }
     (clkDiv p c, resetBits p c, laneWords p c, waitUs p c)) = (2047, 721, 113, 1506) := by decide

/-! ### Host accesses (V-C3, V-C4, V-P3) and the wait timer (V-T6) -/

theorem test_layout_reads_back :
    look (hostWrite 0x024 4 0xFFFFFFFF idle) (fun t => (hostRead 0x024 4 t).1) = some 0x9F1F1F1F := by decide
theorem test_reset_us_legalised :
    look (hostWrite 0x010 4 0x00010000 idle) (fun t => (hostRead 0x010 4 t).1) = some 300 := by decide
theorem test_status_word : (hostRead 0x004 4 { idle with err := .busFault, werr := true, buserr := true, cfg := Cfg.reset }).1 = 0x00007500 := by
  decide
theorem test_status_write :
    look (hostWrite 0x004 4 0x80002000 { idle with err := .busFault, werr := true, buserr := true, cfg := Cfg.reset }) State.statusWord =
      some 0x00005000 := by decide
theorem test_locked_pixel_write : look (hostWrite 0x10000 4 0 pending) (fun t => (t.werr, t.pix .l0 0)) = some (true, 0x00FF0000) := by
  decide
theorem test_pixel_past_capacity : (hostRead 0x11000 4 idle).2.buserr = true ∧ (hostRead 0x11000 4 idle).1 = 0 := by decide
theorem test_misaligned_read : (hostRead 0x002 4 idle).2.buserr = true := by decide
theorem test_gamma_word : look (hostWrite 0x40C 4 0x44332211 idle) (fun t => (t.gamma .l0 12, t.gamma .l0 15)) = some (0x11, 0x44) := by
  decide
theorem test_tick : (usTick pending).waitRemain = 9 ∧ (usTick idle).waitRemain = 0 := by decide

/-! ### The engine -/

theorem test_word_step :
    look (step (withMove (.engine .ok) (busyAt 1))) (fun t => (t.cursor, t.mem)) =
      some (2, [(0x100004, 0x49), (0x100005, 0x92), (0x100006, 0x24), (0x100007, 0x49)]) := by decide
theorem test_bus_fault :
    look (step (withMove (.engine .error) (busyAt 1))) (fun t => (t.err, t.fsm, t.done)) = some (.busFault, .idle, false) := by decide
theorem test_completion :
    look (step (withMove (.engine .ok) (busyAt 26))) (fun t => (t.fsm, t.done, t.armWaitUs)) = some (.idle, true, 347) := by decide

/-! ### States and operands that meet the hypotheses of the statements -/

theorem params_legal : idle.params.legal = true := by decide

theorem freq_legal : FreqLegal cfg := by unfold FreqLegal; decide

theorem freq_legal_ends : FreqLegal { cfg with freq := 400000 } ∧ FreqLegal { cfg with freq := 800000 } := by
  unfold FreqLegal; decide

theorem freq_illegal_ends : ¬FreqLegal { cfg with freq := 399999 } ∧ ¬FreqLegal { cfg with freq := 800001 } := by
  unfold FreqLegal; decide

theorem capacity_holds : CapacityHolds idle.params cfg := (capOk_iff_holds _ _).1 (by decide)

theorem capacity_fails : ¬CapacityHolds idle.params { cfg with outCap := 25 } := fun h =>
  absurd ((capOk_iff_holds _ _).2 h) (by decide)

theorem inv_of_busy (c : Nat) (h : c ≤ 26) (mem : Memory) (hm : mem.wf = true) (sched : List Move) :
    Inv { busyAt c with mem := mem, sched := sched } :=
  ⟨show idle.params.legal = true by decide, show 300 ≤ cfg.resetUs.toNat by decide, hm,
    fun l => show Cells.wf 1024 (idle.pixRam l) = true by cases l <;> decide,
    fun l => show Cells.wf 256 (idle.gammaRam l) = true by cases l <;> decide,
    fun _ => show cfgOk idle.params cfg = true by decide, fun _ => rfl,
    fun _ => show c ≤ bufWords idle.params cfg from h.trans (by decide), fun h => absurd h (by simp [busyAt, idle, State.reset])⟩

theorem meets_DecodeAfterEncode :
    Instr.nop.wellFormed = true ∧ Instr.encode.wellFormed = true ∧ Instr.blank.wellFormed = true ∧ Instr.armed.wellFormed = true ∧
      (Instr.reservedLow 0x4).wellFormed = true ∧ (Instr.reservedLow 0x7).wellFormed = true ∧
      (Instr.reservedHigh 0x8).wellFormed = true ∧ (Instr.reservedHigh 0xF).wellFormed = true := by decide

theorem meets_DecoderReadsOpcodeAlone : 0xFFFFFFF1#32 &&& 0x0000000F#32 = 0x00000001#32 &&& 0x0000000F#32 := by decide

theorem meets_StepRunsDecodedCommand :
    hostWrites (withStmt (.wr 0x008 4 0x12345673) idle) 0x008 0x12345673 ∧
      decode (bytesOfWord 0x12345673) = .ok (.armed, []) ∧ (withStmt (.wr 0x008 4 0x12345673) idle).sched = .host :: [] := by
  unfold hostWrites; decide

theorem meets_PlacedCommandRunsNext :
    decodeTableWord 32 0x0 = some .nop ∧ decodeTableWord 32 0x1 = some .encode ∧ decodeTableWord 32 0x2 = some .blank ∧
      decodeTableWord 32 0x3 = some .armed ∧ decodeTableWord 32 0x4 = some (.reservedLow 4) ∧
      decodeTableWord 32 0x8 = some (.reservedHigh 8) := by decide

theorem meets_NopDoesNothing : 0x00000010#32 &&& 0x0000000F#32 = 0x0#32 := by decide

theorem meets_EncodeMeaning :
    0xFFFFFFF1#32 &&& 0x0000000F#32 = 0x1#32 ∧ pending.fsm ≠ .idle ∧
      (idle.fsm = .idle ∧ ¬FreqLegal { cfg with freq := 399999 }) ∧
      (FreqLegal { cfg with outCap := 25 } ∧ ¬CapacityHolds idle.params { cfg with outCap := 25 }) ∧
      (FreqLegal idle.cfg ∧ CapacityHolds idle.params idle.cfg ∧ idle.waitRemain.toNat = 0) ∧
      0 < ({ idle with waitRemain := 1 } : State).waitRemain.toNat :=
  ⟨by decide, by decide, ⟨rfl, freq_illegal_ends.1⟩, ⟨freq_legal, capacity_fails⟩, ⟨freq_legal, capacity_holds, rfl⟩, by decide⟩

theorem meets_BlankMeaning :
    0x00000012#32 &&& 0x0000000F#32 = 0x2#32 ∧ (busyAt 0).fsm ≠ .idle ∧
      (idle.fsm = .idle ∧ ¬FreqLegal { cfg with freq := 800001 }) ∧
      (FreqLegal { cfg with outCap := 25 } ∧ ¬CapacityHolds idle.params { cfg with outCap := 25 }) ∧
      (FreqLegal idle.cfg ∧ CapacityHolds idle.params idle.cfg ∧ idle.waitRemain.toNat = 0) ∧
      0 < ({ idle with waitRemain := 0xFFFFFFFF } : State).waitRemain.toNat :=
  ⟨by decide, by decide, ⟨rfl, freq_illegal_ends.2⟩, ⟨freq_legal, capacity_fails⟩, ⟨freq_legal, capacity_holds, rfl⟩, by decide⟩

theorem meets_ArmedMeaning : 0x12345673#32 &&& 0x0000000F#32 = 0x3#32 ∧ pending.fsm ≠ .idle ∧ idle.fsm = .idle := by decide

theorem meets_ReservedOpcodesRaiseBadCmd :
    4 ≤ (0xFFFFFFF4#32 &&& 0x0000000F#32).toNat ∧ 4 ≤ (0x0000000F#32 &&& 0x0000000F#32).toNat := by decide

theorem meets_CommandErrorsArePrecise :
    Raises (.reservedLow 0x4) idle .badCmd ∧ Raises (.reservedHigh 0xF) pending .badCmd ∧
      Raises .armed { pending with err := .cmdBusy } .cmdBusy ∧
      Raises .encode { idle with cfg := { cfg with freq := 399999 } } .illegalFreq ∧
      Raises .blank { idle with cfg := { cfg with outCap := 25 } } .outOfMemory ∧
      (∀ e, ¬Raises .nop pending e) ∧ (∃ t, exec .nop pending = .next t) ∧
      ∃ t, exec .armed pending = .next t ∧ t.err ≠ pending.err :=
  ⟨.inl ⟨rfl, _, .inl rfl⟩, .inl ⟨rfl, _, .inr rfl⟩, .inr (.inl ⟨rfl, .inr (.inr rfl), by decide⟩),
    .inr (.inr (.inl ⟨rfl, .inl rfl, rfl, freq_illegal_ends.1⟩)),
    .inr (.inr (.inr ⟨rfl, .inr rfl, rfl, freq_legal, capacity_fails⟩)), fun _ h => by simp [Raises] at h, ⟨_, rfl⟩, _, rfl,
    by decide⟩

theorem meets_FirstFailingCheckIsRaised :
    4 ≤ (0x4#32 &&& 0x0000000F#32).toNat ∧ (0x3#32 &&& 0x0000000F#32 ∈ [0x1#32, 0x2#32, 0x3#32] ∧ pending.fsm ≠ .idle) ∧
      (0x1#32 &&& 0x0000000F#32 ∈ [0x1#32, 0x2#32] ∧ idle.fsm = .idle ∧ ¬FreqLegal { cfg with freq := 399999 }) ∧
      (FreqLegal { cfg with outCap := 25 } ∧ ¬CapacityHolds idle.params { cfg with outCap := 25 }) ∧
      (0x2#32 &&& 0x0000000F#32 ∈ [0x1#32, 0x2#32] ∧ FreqLegal idle.cfg ∧ CapacityHolds idle.params idle.cfg) ∧
      0x3#32 &&& 0x0000000F#32 = 0x3#32 ∧ 0x10#32 &&& 0x0000000F#32 = 0x0#32 :=
  ⟨by decide, by decide, ⟨by decide, rfl, freq_illegal_ends.1⟩, ⟨freq_legal, capacity_fails⟩,
    ⟨by decide, freq_legal, capacity_holds⟩, by decide, by decide⟩

theorem meets_CfgOkShowsAcceptance : idle.fsm = .idle := rfl

theorem meets_CommandFrame :
    (∃ t, exec .encode idle = .next t ∧ Instr.encode ≠ .armed) ∧
      ∃ t, exec .armed idle = .next t ∧ Instr.armed ≠ .encode ∧ Instr.armed ≠ .blank :=
  ⟨⟨_, rfl, by decide⟩, ⟨_, rfl, by decide, by decide⟩⟩

theorem meets_StepKeepsInvariant :
    Inv (withMove (.engine .ok) (busyAt 1)) ∧ ∃ t, step (withMove (.engine .ok) (busyAt 1)) = .next t :=
  ⟨inv_of_busy 1 (by decide) [] (by decide) _, _, rfl⟩

theorem meets_OperationStateTransitions :
    pending.fsm = .pending ∧ (busyAt 25).fsm = .busy ∧
    (∃ t, step (withStmt (.wr 0x008 4 0x1) idle) = .next t ∧ idle.fsm = .idle ∧ t.fsm ≠ idle.fsm) ∧
      (∃ t, step (withMove (.engine .ok) { pending with waitRemain := 0 }) = .next t ∧ pending.fsm = .pending ∧
        t.fsm ≠ pending.fsm) ∧
      ∃ t, step (withMove (.engine .error) (busyAt 25)) = .next t ∧ (busyAt 25).fsm = .busy ∧ t.fsm ≠ (busyAt 25).fsm :=
  ⟨rfl, rfl, ⟨_, rfl, by decide, by decide⟩, ⟨_, rfl, by decide, by decide⟩, ⟨_, rfl, by decide, by decide⟩⟩

theorem meets_ConfigurationHeldWhileWorking :
    (withStmt (.wr 0x10000 4 0x7) pending).fsm ≠ .idle ∧ (withStmt (.wr 0x10000 4 0x7) pending).nextMove ≠ .reset ∧
      ∃ t, step (withStmt (.wr 0x10000 4 0x7) pending) = .next t :=
  ⟨by decide, by decide, _, rfl⟩

theorem meets_RamEntriesKeepTheirValue :
    (∃ t, step (withStmt (.wr 0x10000 4 0x7) idle) = .next t ∧ (withStmt (.wr 0x10000 4 0x7) idle).nextMove ≠ .reset ∧
      t.pix .l0 0 ≠ idle.pix .l0 0) ∧
      ∃ t, step (withStmt (.wr 0x480 4 0x7) idle) = .next t ∧ (withStmt (.wr 0x480 4 0x7) idle).nextMove ≠ .reset ∧
        t.gamma .l0 0x80 ≠ idle.gamma .l0 0x80 :=
  ⟨⟨_, rfl, by decide, by decide⟩, ⟨_, rfl, by decide, by decide⟩⟩

theorem meets_WaitTimerCountsDown :
    (withMove .tick pending).nextMove = .tick ∧
      (∃ t, step (withStmt (.wr 0x008 4 0x3) idle) = .next t ∧ t.waitRemain ≠ idle.waitRemain ∧
        (withStmt (.wr 0x008 4 0x3) idle).nextMove ≠ .tick) ∧
      ∃ t, step (withMove .reset pending) = .next t ∧ t.waitRemain ≠ pending.waitRemain ∧
        (withMove .reset pending).nextMove ≠ .tick :=
  ⟨rfl, ⟨_, rfl, by decide, by decide⟩, ⟨_, rfl, by decide, by decide⟩⟩

theorem meets_FlagsAreClearedOnlyAsStated :
    let s : State := withStmt (.wr 0x004 4 0x80007000) { idle with err := .badCmd, werr := true, buserr := true }
    (∃ t, step s = .next t ∧ s.nextMove ≠ .reset ∧ (∀ k ∈ [12, 13, 14, 31], (0x80007000#32).getLsbD k = true) ∧ (s.err ≠ .none ∧ t.err = .none) ∧ (s.done = true ∧ t.done = false) ∧
      (s.werr = true ∧ t.werr = false) ∧ (s.buserr = true ∧ t.buserr = false)) ∧
    (∃ t, step (withStmt (.wr 0x008 4 0x2) idle) = .next t ∧ decodeWord 0x2 = .blank ∧ idle.fsm = .idle ∧ FreqLegal idle.cfg ∧
      CapacityHolds idle.params idle.cfg ∧ idle.done = true ∧ t.done = false) ∧
    (∃ t, step (withMove .reset pending) = .next t ∧ (withMove .reset pending).nextMove = .reset) ∧
    hostWrites s 0x004 0x80007000 ∧ hostWrites (withStmt (.wr 0x008 4 0x2) idle) 0x008 0x2 :=
  ⟨⟨_, rfl, by decide⟩, ⟨_, rfl, by decide, rfl, freq_legal, capacity_holds, by decide⟩, ⟨_, rfl, rfl⟩, ⟨rfl, rfl, rfl⟩, rfl, rfl, rfl⟩

theorem meets_LockedWritesAreDropped :
    idle.params.legal = true ∧ pending.fsm ≠ .idle ∧ windowLocked idle.params 0x000 ∧ windowLocked idle.params 0x038 ∧
      windowLocked idle.params 0x400 ∧ windowLocked idle.params 0x5FC ∧ windowLocked idle.params 0x10FFC ∧
      windowLocked idle.params 0x20000 := by unfold windowLocked; decide

theorem meets_ConfigurationWriteReadsBack :
    idle.fsm = .idle ∧ 0x000 ∈ configOffsets ∧ 0x038 ∈ configOffsets ∧ 0x038 ≠ 0x000 := by decide

theorem meets_ReadOnlyWritesAreIgnored :
    0x040 ∈ [0x040, 0x044, 0x048, 0x04C, 0x050, 0x054, 0x058, 0x05C, 0x060, 0x064] := by decide

theorem meets_StatusWriteClearsFlags :
    (∀ k ∈ [12, 13, 14, 31], (0x80007000#32).getLsbD k = true) ∧ ∀ k ∈ [12, 13, 14, 31], (0x00000FFF#32).getLsbD k = false := by
  decide

theorem meets_StatusReadsItsFields :
    (∀ e : Err, ({ idle with err := e } : State).err = e) ∧ ((4 ≤ 4 ∧ 4 ≤ 7) ∨ 15 ≤ 4) ∧ ((4 ≤ 31 ∧ 31 ≤ 7) ∨ 15 ≤ 31) :=
  ⟨fun _ => rfl, by decide, by decide⟩

theorem meets_UnsupportedAccessSetsBuserr :
    idle.params.legal = true ∧ 1 ≠ 4 ∧ 0x002 % 4 ≠ 0 ∧ ¬windowMapped idle.params 0x01C ∧ ¬windowMapped idle.params 0x3FC ∧
      ¬windowMapped idle.params 0x600 ∧ ¬windowMapped idle.params 0x11000 ∧ ¬windowMapped idle.params 0x30000 := by
  unfold windowMapped; decide

theorem meets_SupportedReadsChangeNothing :
    idle.params.legal = true ∧ windowMapped idle.params 0x000 ∧ windowMapped idle.params 0x064 ∧
      windowMapped idle.params 0x5FC ∧ windowMapped idle.params 0x10FFC ∧ windowMapped idle.params 0x20FFC := by
  unfold windowMapped; decide

theorem meets_RamAccess :
    idle.params.legal = true ∧ 1023 < idle.params.pixCap ∧ 63 < 64 ∧ idle.fsm = .idle ∧ pending.fsm ≠ .idle ∧ (LaneId.l1 ≠ LaneId.l0 ∨ 0 ≠ 0) ∧
      (LaneId.l0 ≠ LaneId.l0 ∨ 255 / 4 ≠ 62) := by decide

theorem meets_DerivedRegistersAreExact :
    idle.params.legal = true ∧ ({ oscHz := 4915199999, pixCap := 16384 } : Params).legal = true ∧
      FreqLegal idle.cfg ∧ ¬FreqLegal { cfg with freq := 399999 } ∧ idle.cfg.active .l0 = true ∧ idle.cfg.mode = .single ∧
      ({ cfg with mode := .dual } : Cfg).mode = .dual :=
  ⟨by decide, by decide, freq_legal, freq_illegal_ends.1, by decide, rfl, rfl⟩

theorem meets_TimerAndParameterRegisters : idle.params.legal = true ∧ idle.params.oscHz < 2 ^ 32 := by decide

theorem meets_ExtractTakesTheByteAtTheShift : 0 < 8 ∧ 7 < 8 := by decide

theorem meets_BrightnessScaleIsExact :
    (idle.cfg.lane .l0).bright = 255 ∧ (({ cfg with lane0 := { oneLed with bright := 0 } } : Cfg).lane .l0).bright = 0 := by decide

theorem meets_EncodeByteIsGammaThenBrightness :
    3 < 4 ∧
      (0x00 : Byte).toNat =
        (idle.pix .l0 0).toNat / 2 ^ ((hostRead (0x024 + 0x10 * LaneId.l0.idx) 4 idle).1.extractLsb' (8 * 3) 5).toNat % 256 ∧
      (0xFF : Byte).toNat =
        (idle.pix .l0 0).toNat / 2 ^ ((hostRead (0x024 + 0x10 * LaneId.l0.idx) 4 idle).1.extractLsb' (8 * 0) 5).toNat % 256 ∧
      (idle.cfg.lane .l0).gammaEn = false ∧
      (({ cfg with lane0 := { oneLed with gammaEn := true } } : Cfg).lane .l0).gammaEn = true := by decide

theorem meets_BlankReadsNoColour :
    ({ idle.cfg with lane0 := { idle.cfg.lane0 with bright := 7 }, lane1 := { idle.cfg.lane1 with bright := 255 } } : Cfg) =
      { cfg with lane0 := { oneLed with bright := 7 } } ∧ idle.cfg.active .l0 = true := by decide

theorem meets_StreamLength :
    idle.cfg.active .l0 = true ∧ idle.cfg.active .l1 = false ∧ (idle.cfg.lane .l0).white = false ∧
      (({ cfg with lane0 := { oneLed with white := true } } : Cfg).lane .l0).white = true ∧ idle.cfg.mode = .single ∧
      ({ cfg with mode := .dual } : Cfg).mode = .dual := by decide

theorem meets_StreamSlotsFromColourBytes :
    idle.cfg.active .l0 = true ∧ 0 < (idle.cfg.lane .l0).count.toNat ∧ 2 < (idle.cfg.lane .l0).cpp ∧ 7 < 8 := by decide

theorem meets_LaneWordPacksFirstSlotHighest : 31 < 32 ∧ ([true, false] : List Bool).length ≤ 32 * 1 := by decide

theorem meets_OutputWordsInterleaveLanes :
    31 < 32 ∧ ({ cfg with mode := .dual } : Cfg).mode = .dual ∧ cfg.mode = .single ∧ idle.cfg.active .l1 = false := by decide

theorem meets_LaneHoldsStreamAndResetPeriod : FreqLegal idle.cfg := freq_legal

theorem meets_SizesGrowWithLedCount : (cfg.lane .l0).count.toNat ≤ (65535 : BitVec 16).toNat := by decide

theorem meets_DividerRangeAndRate :
    idle.params.legal = true ∧ FreqLegal { cfg with freq := 400000 } ∧ FreqLegal { cfg with freq := 800000 } ∧
      ¬FreqLegal { cfg with freq := 399999 } ∧ ¬FreqLegal { cfg with freq := 800001 } :=
  ⟨by decide, freq_legal_ends.1, freq_legal_ends.2, freq_illegal_ends.1, freq_illegal_ends.2⟩

theorem meets_PaddingMeetsBothBounds :
    idle.params.legal = true ∧ FreqLegal cfg ∧ 300 ≤ cfg.resetUs.toNat ∧ ¬FreqLegal { cfg with freq := 800001 } :=
  ⟨by decide, freq_legal, by decide, freq_illegal_ends.2⟩

theorem meets_WaitCoversTheTransfer :
    idle.params.legal = true ∧ FreqLegal cfg ∧ ¬FreqLegal { cfg with freq := 800001 } :=
  ⟨by decide, freq_legal, freq_illegal_ends.2⟩

theorem meets_WordStepByAnswer :
    (busyAt 25).fsm = .busy ∧ (busyAt 25).cursor < bufWords (busyAt 25).params (busyAt 25).cfg ∧
      ∀ a : MemAnswer, (withMove (.engine a) (busyAt 25)).nextMove = .engine a := ⟨by decide, by decide, fun _ => rfl⟩

theorem meets_EngineStartsAndCompletes :
    Inv { busyAt 0 with mem := [], sched := [] } ∧ (busyAt 0).fsm ≠ .idle ∧
    (∀ (a : MemAnswer) (s : State), (withMove (.engine a) s).nextMove = .engine a) ∧ idle.fsm = .idle ∧
      (pending.fsm = .pending ∧ pending.waitRemain ≠ 0) ∧ ({ pending with waitRemain := 0 } : State).waitRemain = 0 ∧
      (busyAt 26).fsm = .busy ∧ bufWords (busyAt 26).params (busyAt 26).cfg ≤ (busyAt 26).cursor :=
  ⟨inv_of_busy 0 (by decide) [] (by decide) _, by decide, fun _ _ => rfl, by decide, by decide, by decide, by decide, by decide⟩

/-- The first word of a command in flight, and a reset next. -/
def resetInFlight : State := { withMove .reset (busyAt 0) with inFlight := true }

theorem inv_resetInFlight : Inv resetInFlight := by
  have h := inv_of_busy 0 (by decide) [] (by decide) [.reset]
  exact ⟨h.params, h.resetUs, h.mem, h.pix, h.gamma, h.accepted, h.notDone, h.cursor,
    fun _ => ⟨rfl, show 0 < bufWords idle.params cfg by decide⟩⟩

theorem meets_BlockWritesOnlyItsBuffer :
    (∃ t, Inv (withMove (.engine .ok) (busyAt 1)) ∧ step (withMove (.engine .ok) (busyAt 1)) = .next t ∧
      t.mem.read 0x100007 ≠ (withMove (.engine .ok) (busyAt 1)).mem.read 0x100007) ∧
      (∃ t, Inv (withMove (.outsideWrite 0xFFFFFFFF 7) (busyAt 1)) ∧
        step (withMove (.outsideWrite 0xFFFFFFFF 7) (busyAt 1)) = .next t ∧
        t.mem.read 0xFFFFFFFF ≠ (withMove (.outsideWrite 0xFFFFFFFF 7) (busyAt 1)).mem.read 0xFFFFFFFF) ∧
      ∃ t, Inv resetInFlight ∧ step resetInFlight = .next t ∧
        (Config.freeBool 0 = true → t.mem.read 0x100003 ≠ resetInFlight.mem.read 0x100003) := by
  refine ⟨⟨_, inv_of_busy 1 (by decide) [] (by decide) _, rfl, by decide⟩,
    ⟨_, inv_of_busy 1 (by decide) [] (by decide) _, rfl, by decide⟩, ⟨_, inv_resetInFlight, rfl, fun h => ?_⟩⟩
  have e : settleInFlight resetInFlight.popMove =
      storeWord resetInFlight.popMove.curAddr resetInFlight.popMove.curWord (takeBool resetInFlight.popMove).2 :=
    (if_pos rfl).trans (if_pos h)
  rw [resetBlock, e]
  decide

theorem meets_StepKeepsWrittenWords :
    let s : State := { busyAt 1 with mem := Memory.writeWord [] 0x100000 0xDB6DB692, sched := [.engine .ok] }
    Inv s ∧ BufferHolds s ∧ (∀ a v, s.nextMove ≠ .outsideWrite a v) ∧ ∃ t, step s = .next t :=
  ⟨inv_of_busy 1 (by decide) _ (by decide) _, fun _ c (hc : c < 1) => by interval_cases c; decide,
    fun _ _ => by simp [State.nextMove], _, rfl⟩

/-- The end of a command with no LEDs at 400 kHz (V-T3: 12 words), all its words, idle slots alone, in memory. -/
def paddingDone : State :=
  { idle with
    cfg := { cfg with freq := 400000, lane0 := { oneLed with count := 0 } }
    fsm := .busy
    done := false
    cursor := 12
    mem := (List.range 48).map fun b => (0x100000 + b, 0)
    sched := [.engine .noAnswer] }

theorem meets_CompletionLeavesWholeBuffer :
    Inv paddingDone ∧ BufferHolds paddingDone ∧ paddingDone.nextMove = .engine .noAnswer ∧ (∃ t, step paddingDone = .next t) ∧
      paddingDone.fsm = .busy ∧ bufWords paddingDone.params paddingDone.cfg ≤ paddingDone.cursor :=
  ⟨⟨by decide, by decide, by decide, fun l => by cases l <;> decide, fun l => by cases l <;> decide, fun _ => by decide,
      fun _ => rfl, fun _ => by decide, fun h => absurd h (by decide)⟩,
    fun _ c (hc : c < 12) => by interval_cases c <;> decide, rfl, ⟨_, rfl⟩, rfl, by decide⟩

theorem meets_AcknowledgedCommandCompletes :
    let s : State := { busyAt 24 with mem := [], sched := List.replicate 3 (.engine .ok) ++ [.tick] }
    Inv s ∧ s.fsm = .busy ∧ s.cursor + 2 = bufWords s.params s.cfg ∧ s.sched = List.replicate (2 + 1) (.engine .ok) ++ [.tick] :=
  ⟨inv_of_busy 24 (by decide) [] (by decide) _, rfl, by decide, rfl⟩

theorem meets_HeldCommandWaitsOutTheTimer :
    let s : State := { pending with waitRemain := 1, sched := [.tick, .engine .noAnswer] }
    ∃ t, s.fsm = .pending ∧ core.run 2 s = .next t ∧ Move.reset ∉ movesOf 2 s ∧ t.fsm ≠ .pending :=
  ⟨_, rfl, rfl, by decide, by decide⟩

theorem meets_ResetStep :
    ((withMove .reset (busyAt 3)).nextMove = .reset ∧ (withMove .reset (busyAt 3)).inFlight = false) ∧
      resetInFlight.nextMove = .reset ∧ resetInFlight.inFlight = true := by decide

theorem meets_RegistersAfterReset : 0x05C ∈ [0x000, 0x05C] ∧ 0x034 ∈ [0x024, 0x034] ∧ 0x038 ∈ [0x028, 0x038] := by decide

theorem meets_ObserverSeesOldOrNewWord :
    (withMove (.observeWord 0x40003) { busyAt 3 with inFlight := true }).nextMove = .observeWord 0x40003 ∧
      (withMove (.observeByte 0x10000F) { busyAt 3 with inFlight := true }).nextMove = .observeByte 0x10000F := ⟨rfl, rfl⟩

theorem meets_LineCarriesTheStream :
    FreqLegal idle.cfg ∧ LaneId.idx .l0 < idle.cfg.nl ∧ xor true (xor true (idle.cfg.lane .l0).inv) = false :=
  ⟨freq_legal, by decide, by decide⟩

theorem meets_SymbolLevelsOnTheLine : xor false (xor true true) = false := by decide

theorem meets_HostStatements :
    ∀ st : Stmt, (withStmt st idle).nextMove = .host ∧ (withStmt st idle).host.delay = 0 ∧
      (withStmt st idle).host.program[(withStmt st idle).host.pc]? = some st := fun _ => ⟨rfl, rfl, rfl⟩

end Sys2Proof.Tests
end

section
/-! PROOFS. What holds of the state in every reachable state: the invariant at reset, and every step keeps it. -/

namespace Sys2Proof.Machine

/-! ### The invariant, one operation at a time -/

section Invariant

variable {s t : State}

/-- The invariant speaks of no flag but `DONE`, of no timer, of no draw and of no agent outside the block. -/
theorem Inv.frame (h : Inv s) (err : Err) (done werr buserr : Bool) (waitRemain armWaitUs : Word) (draw : Nat) (curOp : CurOp)
    (host : HostAgent) (seen : Word) (sched : List Move) (freeIx : Nat) (hd : s.done = false → done = false) :
    Inv { s with
      err := err, done := done, werr := werr, buserr := buserr, waitRemain := waitRemain, armWaitUs := armWaitUs,
      draw := draw, curOp := curOp, host := host, seen := seen, sched := sched, freeIx := freeIx } :=
  ⟨h.params, h.resetUs, h.mem, h.pix, h.gamma, h.accepted, fun hw => hd (h.notDone hw), h.cursor, h.inFlight⟩

theorem Inv.withMem (h : Inv s) {m : Memory} (hm : m.wf = true) : Inv { s with mem := m } :=
  ⟨h.params, h.resetUs, hm, h.pix, h.gamma, h.accepted, h.notDone, h.cursor, h.inFlight⟩

theorem Inv.withHost (h : Inv s) (a : HostAgent) : Inv { s with host := a } := h.frame _ _ _ _ _ _ _ _ _ _ _ _ id

theorem Inv.popMove (h : Inv s) : Inv s.popMove := by
  rw [popMove_frame]
  exact h.frame _ _ _ _ _ _ _ _ _ _ _ _ id

theorem Inv.raiseErr (h : Inv s) (e : Err) : Inv (raiseErr e s) := h.frame _ _ _ _ _ _ _ _ _ _ _ _ id

theorem Inv.writeStatus (h : Inv s) (v : Word) : Inv (writeStatus v s) := by
  have hd : s.done = false → (s.done && !v.getLsbD 12) = false := fun e => by rw [e, Bool.false_and]
  unfold Machine.writeStatus
  dsimp only
  split <;> exact h.frame _ _ _ _ _ _ _ _ _ _ _ _ hd

/-- No write is in flight outside `BUSY`, nor once the cursor has reached the end of the buffer. -/
theorem Inv.not_inFlight (h : Inv s) (hn : s.fsm = .busy → bufWords s.params s.cfg ≤ s.cursor) : s.inFlight = false := by
  by_contra hi
  obtain ⟨hb, hc⟩ := h.inFlight (by simpa using hi)
  exact absurd (hn hb) (by omega)

theorem Inv.accept (h : Inv s) (op : CurOp) (hi : s.fsm = .idle) (hc : cfgOk s.params s.cfg = true) : Inv (accept op s) := by
  have hf : s.inFlight = false := h.not_inFlight fun hb => by simp [hi] at hb
  unfold Machine.accept
  split
  · exact ⟨h.params, h.resetUs, h.mem, h.pix, h.gamma, fun _ => hc, fun _ => rfl, fun _ => Nat.zero_le _, by simp [hf]⟩
  · exact ⟨h.params, h.resetUs, h.mem, h.pix, h.gamma, fun _ => hc, fun _ => rfl, by simp, by simp [hf]⟩

theorem Inv.exec (h : Inv s) {i : Instr} (he : exec i s = .next t) : Inv t := by
  obtain rfl | ⟨e, -, rfl⟩ | ⟨op, rfl, hi, hc, -⟩ | ⟨-, -, rfl⟩ := exec_cases he
  · exact h
  · exact h.raiseErr e
  · exact h.accept op hi hc
  · exact h.frame _ _ _ _ _ _ _ _ _ _ _ _ id

/-- A write of a configuration register leaves `RESET_US` as it was or made legal (10_state.md R34). -/
theorem writeCfg_resetUs (r : Reg) (v : Word) (c : Cfg) :
    (writeCfg r v c).resetUs = c.resetUs ∨ (writeCfg r v c).resetUs = resetUsOf v := by
  cases r
  case resetUs => exact .inr rfl
  case count l => cases l <;> exact .inl rfl
  case layout l => cases l <;> exact .inl rfl
  case ctl l => cases l <;> exact .inl rfl
  all_goals exact .inl rfl

/-- The configuration changes only in `IDLE`, where nothing is asked of it but `RESET_US`. -/
theorem Inv.writeCfg (h : Inv s) (hi : s.fsm = .idle) (r : Reg) (v : Word) : Inv { s with cfg := writeCfg r v s.cfg } := by
  have hf : s.inFlight = false := h.not_inFlight fun hb => by simp [hi] at hb
  have hr : 300 ≤ (Machine.writeCfg r v s.cfg).resetUs.toNat := by
    obtain e | e := writeCfg_resetUs r v s.cfg <;> rw [e]
    · exact h.resetUs
    · exact resetUsOf_ge v
  exact ⟨h.params, hr, h.mem, h.pix, h.gamma, by simp [hi], by simp [hi], by simp [hi], by simp [hf]⟩

theorem Inv.setPix (h : Inv s) (l : LaneId) {i : Nat} (v : Word) (hi : i < s.params.pixCap) : Inv (s.setPix l i v) := by
  have hp := pixRam_wf_setPix l i v h.pix hi
  cases l <;>
    exact ⟨h.params, h.resetUs, h.mem, hp, h.gamma, h.accepted, h.notDone, h.cursor, h.inFlight⟩

theorem Inv.setGammaWord (h : Inv s) (l : LaneId) {k : Nat} (v : Word) (hk : k < 64) : Inv (s.setGammaWord l k v) :=
  { params := by simpa using h.params
    resetUs := by simpa using h.resetUs
    mem := by simpa using h.mem
    pix := by simpa [State.setGammaWord] using h.pix
    gamma := gammaRam_wf_setGammaWord l k v h.gamma hk
    accepted := by simpa using h.accepted
    notDone := by simpa using h.notDone
    cursor := by simpa using h.cursor
    inFlight := by simpa using h.inFlight }

theorem Inv.blockEffect (h : Inv s) (he : BlockEffect s t) : Inv t := by
  cases he with
  | same => exact h
  | buserr => exact h.frame _ _ _ _ _ _ _ _ _ _ _ _ id
  | werr => exact h.frame _ _ _ _ _ _ _ _ _ _ _ _ id
  | command i t hx => exact h.exec hx
  | status v => exact h.writeStatus v
  | config r v hi => exact h.writeCfg hi r v
  | gammaWord l k v hi hk => exact h.setGammaWord l v hk
  | pixel l i v hi hk => exact h.setPix l v hk

theorem Inv.hostStep (h : Inv s) (hs : hostStep s = .next t) : Inv t := by
  obtain ⟨h1, h2, u, hb, rfl⟩ := hostStep_effect hs
  exact ((h.withHost h1).blockEffect hb).withHost h2

/-- A word of the block lands inside the bus space, wherever the cursor stands. -/
theorem Inv.mem_writeWord (h : Inv s) (v : Word) : (s.mem.writeWord s.curAddr.toNat v).wf = true :=
  Memory.wf_writeWord v h.mem (outAddr_aligned s.cfg s.cursor).2

theorem Inv.startHeld (h : Inv s) (hp : s.fsm = .pending) : Inv (startHeld s) := by
  have hw : s.fsm ≠ .idle := by simp [hp]
  have hf : s.inFlight = false := h.not_inFlight fun hb => by simp [hp] at hb
  exact ⟨h.params, h.resetUs, h.mem, h.pix, h.gamma, fun _ => h.accepted hw, fun _ => h.notDone hw, fun _ => Nat.zero_le _,
    by simp [hf]⟩

theorem Inv.wordDone (h : Inv s) (hc : s.cursor < bufWords s.params s.cfg) : Inv (wordDone s) :=
  ⟨h.params, h.resetUs, h.mem_writeWord _, h.pix, h.gamma, h.accepted, h.notDone, fun _ => hc, by simp⟩

theorem Inv.wordFault (h : Inv s) : Inv (wordFault s) :=
  ⟨h.params, h.resetUs, h.mem_writeWord _, h.pix, h.gamma, by simp, by simp, by simp, by simp⟩

theorem Inv.issueWord (h : Inv s) (hb : s.fsm = .busy) (hc : s.cursor < bufWords s.params s.cfg) :
    Inv { s with inFlight := true } :=
  ⟨h.params, h.resetUs, h.mem, h.pix, h.gamma, h.accepted, h.notDone, h.cursor, fun _ => ⟨hb, hc⟩⟩

theorem Inv.completeCommand (h : Inv s) (hc : bufWords s.params s.cfg ≤ s.cursor) : Inv (completeCommand s) := by
  have hf : s.inFlight = false := h.not_inFlight fun _ => hc
  exact ⟨h.params, h.resetUs, h.mem, h.pix, h.gamma, by simp, by simp, by simp, by simp [hf]⟩

theorem Inv.engineStep (h : Inv s) (a : MemAnswer) : Inv (engineStep a s) := by
  obtain ⟨e, -⟩ | ⟨e, hp, -⟩ | ⟨e, -, -, hc⟩ | ⟨e, -⟩ | ⟨e, -, hb, hc⟩ | ⟨e, -, hc⟩ := engineStep_cases a s <;> rw [e]
  · exact h
  · exact h.startHeld hp
  · exact h.wordDone hc
  · exact h.wordFault
  · exact h.issueWord hb hc
  · exact h.completeCommand hc

/-- A reset keeps the parameters and the bus space; whatever lands of a write in flight lands inside it. -/
theorem Inv.resetBlock (h : Inv s) : Inv (resetBlock s) := by
  have hm : (settleInFlight s).mem.wf = true := by
    obtain e | ⟨-, e⟩ := settleInFlight_mem s <;> rw [e]
    · exact h.mem
    · exact h.mem_writeWord _
  have hp : (settleInFlight s).params = s.params := by rw [settleInFlight_frame]
  exact
    { params := by rw [Machine.resetBlock, clearBlock_params, hp]; exact h.params
      resetUs := show 300 ≤ Cfg.reset.resetUs.toNat by decide
      mem := hm
      pix := fun l => by cases l <;> exact Cells.wf_nil _
      gamma := fun l => by cases l <;> exact Cells.wf_nil _
      accepted := by simp [Machine.resetBlock]
      notDone := by simp [Machine.resetBlock]
      cursor := by simp [Machine.resetBlock]
      inFlight := by simp [Machine.resetBlock] }

end Invariant

/-! ### The invariant at reset and along every step -/

theorem resetParams_legal : State.reset.params.legal = true := by
  rw [Params.legal_iff]
  simp only [State.reset, Config.oscHz, Config.pixCap]
  omega

/-- Settles O17: `Config`'s parameters are brought into R10's range, and no command is in progress. -/
theorem resetSatisfiesInvariant : Obligations.ResetSatisfiesInvariant :=
  { params := resetParams_legal
    resetUs := show 300 ≤ Cfg.reset.resetUs.toNat by decide
    mem := reset_mem_wf
    pix := fun l => by cases l <;> exact Cells.wf_nil _
    gamma := fun l => by cases l <;> exact Cells.wf_nil _
    accepted := fun h => absurd rfl h
    notDone := fun h => absurd rfl h
    cursor := fun _ => Nat.zero_le _
    inFlight := by simp [State.reset] }

/-- Settles O18, by the agent that moves. -/
theorem stepKeepsInvariant : Obligations.StepKeepsInvariant := by
  intro s t hs h
  have hs := hs.popMove
  obtain ⟨-, h⟩ | ⟨a, -, rfl⟩ | ⟨-, rfl⟩ | ⟨-, rfl⟩ | ⟨k, -, rfl⟩ | ⟨a, -, rfl⟩ | ⟨a, v, -, rfl⟩ := step_cases h
  · exact hs.hostStep h
  · exact hs.engineStep a
  · exact hs.frame _ _ _ _ _ _ _ _ _ _ _ _ id
  · exact hs.resetBlock
  · rw [observeWord_frame]
    exact hs.frame _ _ _ _ _ _ _ _ _ _ _ _ id
  · rw [observeByte_frame]
    exact hs.frame _ _ _ _ _ _ _ _ _ _ _ _ id
  · exact hs.withMem (Memory.wf_write v hs.mem a.isLt)

end Sys2Proof.Machine
end

section
/-! PROOFS. The registers as the host reads and writes them (10_state.md section 3). -/

namespace Sys2Proof.Machine

/-! ### An access to a register's own offset -/

theorem placeOf_offset (r : Reg) (s : State) : placeOf s r.offset 4 = .reg r := by
  cases r
  case count l => cases l <;> rfl
  case layout l => cases l <;> rfl
  case ctl l => cases l <;> rfl
  all_goals rfl

theorem hostRead_offset (r : Reg) (s : State) : hostRead r.offset 4 s = (readReg r s, s) := by
  simp only [hostRead, placeOf_offset]

theorem hostWrite_offset (r : Reg) (v : Word) (s : State) : hostWrite r.offset 4 v s = writeReg r v s := by
  simp only [hostWrite, placeOf_offset]

/-- The read-only registers: neither locked, nor `CMD`, nor `STATUS` (10_state.md R23). -/
theorem writeReg_readOnly {r : Reg} (hl : r.locked = false) (hc : r ≠ .cmd) (hs : r ≠ .status) (v : Word) (s : State) :
    writeReg r v s = .next s := by
  cases r <;> simp_all [writeReg, Reg.locked]

/-- Settles O26: each offset is that of a read-only register. -/
theorem readOnlyWritesAreIgnored : Obligations.ReadOnlyWritesAreIgnored := by
  intro s off v h
  have hr : ∃ r : Reg, r.offset = off ∧ r.locked = false ∧ r ≠ .cmd ∧ r ≠ .status := by
    simp only [List.mem_cons, List.not_mem_nil, or_false] at h
    obtain rfl | rfl | rfl | rfl | rfl | rfl | rfl | rfl | rfl | rfl := h
    · exact ⟨.clkDiv, by decide⟩
    · exact ⟨.resetBits, by decide⟩
    · exact ⟨.laneWords, by decide⟩
    · exact ⟨.bufWords, by decide⟩
    · exact ⟨.xferBytes, by decide⟩
    · exact ⟨.waitUs, by decide⟩
    · exact ⟨.waitRemain, by decide⟩
    · exact ⟨.armWaitUs, by decide⟩
    · exact ⟨.paramOscHz, by decide⟩
    · exact ⟨.paramPixCap, by decide⟩
  obtain ⟨r, rfl, hl, hc, hs⟩ := hr
  rw [hostWrite_offset, writeReg_readOnly hl hc hs]

/-! ### `STATUS` -/

/-- The four flags that follow from the state, in bits 3:0 of `STATUS` (10_state.md R31). -/
theorem statusWord_stateBits (s : State) :
    s.statusWord.getLsbD 0 = s.busyFlag ∧ s.statusWord.getLsbD 1 = s.pendingFlag ∧
      s.statusWord.getLsbD 2 = s.waitingFlag ∧ s.statusWord.getLsbD 3 = s.cfgOkFlag := by
  simp only [State.statusWord, flagBit, BitVec.getLsbD_append, BitVec.getLsbD_ofBool]
  simp

/-- The three flags that are held, in bits 14:12 of `STATUS` (R31). -/
theorem statusWord_heldBits (s : State) :
    s.statusWord.getLsbD 12 = s.done ∧ s.statusWord.getLsbD 13 = s.werr ∧ s.statusWord.getLsbD 14 = s.buserr := by
  simp only [State.statusWord, flagBit, BitVec.getLsbD_append, BitVec.getLsbD_ofBool]
  simp

theorem statusWord_errField (s : State) : s.statusWord.extractLsb' 8 4 = s.err.code := by
  refine BitVec.eq_of_getLsbD_eq fun i hi => ?_
  simp only [State.statusWord, BitVec.getLsbD_append, BitVec.getLsbD_extractLsb']
  interval_cases i <;> simp

/-- The reserved bits of `STATUS`, and `ERR_CLR`, read 0 (R31). -/
theorem statusWord_reservedBits (s : State) {k : Nat} (hk : (4 ≤ k ∧ k ≤ 7) ∨ 15 ≤ k) : s.statusWord.getLsbD k = false := by
  obtain ⟨h4, h7⟩ | h := hk
  · simp only [State.statusWord, BitVec.getLsbD_append]
    interval_cases k <;> simp
  · rw [State.statusWord, BitVec.getLsbD_append, if_neg (by omega), BitVec.getLsbD_zero]

/-- `STATUS.CFG_OK` in the words of R171 and R157. -/
theorem cfgOkFlag_iff (s : State) : s.cfgOkFlag = true ↔ FreqLegal s.cfg ∧ CapacityHolds s.params s.cfg := by
  rw [State.cfgOkFlag, cfgOk, Bool.and_eq_true, freqOk_iff_legal, capOk_iff_holds]

/-- Settles O28, field by field. -/
theorem statusReadsItsFields : Obligations.StatusReadsItsFields := by
  intro s
  obtain ⟨hbusy, hpending, hwaiting, hcfgOk⟩ := statusWord_stateBits s
  obtain ⟨hdone, hwerr, hbuserr⟩ := statusWord_heldBits s
  refine ⟨s.statusWord, hostRead_offset .status s, ?_, ?_, ?_, ?_, ?_, hdone, hwerr, hbuserr,
    fun k hk => statusWord_reservedBits s hk⟩
  · rw [hbusy, State.busyFlag, beq_iff_eq]
  · rw [hpending, State.pendingFlag, beq_iff_eq]
  · rw [hwaiting, State.waitingFlag, bne_iff_ne]
  · rw [hcfgOk, cfgOkFlag_iff]
  · rw [statusWord_errField]
    refine ⟨?_, ?_, ?_, ?_, ?_, ?_⟩ <;> intro e <;> rw [e] <;> rfl

/-! ### The derived registers -/

section Derived

variable {p : Params} {c : Cfg}

theorem activeCount_lt (c : Cfg) (l : LaneId) : c.activeCount l < 65536 := by
  unfold Cfg.activeCount
  split
  · exact (c.lane l).count.isLt
  · decide

theorem nmax_lt (c : Cfg) : c.nmax < 65536 := max_lt (activeCount_lt c .l0) (activeCount_lt c .l1)

/-- `NMAX` is 0 or the LED count of an active lane (41_symbol_packing.md R152). -/
theorem nmax_attained (c : Cfg) : c.nmax = 0 ∨ ∃ l, c.active l = true ∧ (c.lane l).count.toNat = c.nmax := by
  have key : ∀ l, c.nmax = c.activeCount l → c.nmax = 0 ∨ ∃ l, c.active l = true ∧ (c.lane l).count.toNat = c.nmax := by
    intro l e
    unfold Cfg.activeCount at e
    split at e
    · next ha => exact .inr ⟨l, ha, e.symm⟩
    · exact .inl e
  exact (max_choice _ _).elim (key .l0) (key .l1)

/-- The reset period takes fewer than 5 slots a microsecond: a slot lasts at least `1 / 4800000` s, whatever the oscillator. -/
theorem resetBits_le (hp : p.legal = true) : resetBits p c ≤ 5 * c.resetUs.toNat := by
  by_cases hf : c.freqOk = true
  · obtain ⟨-, hd, -, -, hlt⟩ := clkDiv_spec hp hf
    have hfreq := ((Cfg.freqOk_iff c).1 hf).2
    have hosc : p.oscHz ≤ 5 * (clkDiv p c * 1000000) := by
      have : (clkDiv p c + 1) * (3 * c.freq.toNat) ≤ (2 * clkDiv p c) * 2400000 := Nat.mul_le_mul (by omega) (by omega)
      omega
    rw [resetBits, if_pos hf, ceilDiv_le_iff (by omega)]
    calc c.resetUs.toNat * p.oscHz ≤ c.resetUs.toNat * (5 * (clkDiv p c * 1000000)) := Nat.mul_le_mul_left _ hosc
      _ = 5 * c.resetUs.toNat * (clkDiv p c * 1000000) := by ring
  · simp [resetBits, hf]

theorem resetWords_le (hp : p.legal = true) : resetWords p c ≤ 10240 := by
  have hb := resetBits_le (c := c) hp
  have hr := c.resetUs.isLt
  rw [resetWords, ceilDiv_le_iff (by decide), wordBits]
  omega

theorem laneWords_of_legal (h : FreqLegal c) : laneWords p c = c.dataWords + resetWords p c :=
  if_pos ((freqOk_iff_legal c).2 h)

theorem laneWords_of_illegal (h : ¬FreqLegal c) : laneWords p c = 0 := if_neg fun hf => h ((freqOk_iff_legal c).1 hf)

theorem laneWords_le (hp : p.legal = true) : laneWords p c ≤ 206845 := by
  have hw := resetWords_le (c := c) hp
  have hn := nmax_lt c
  by_cases h : FreqLegal c
  · rw [laneWords_of_legal h, Cfg.dataWords_eq]
    omega
  · simp [laneWords_of_illegal h]

theorem bufWords_dual (h : c.mode = .dual) : bufWords p c = 2 * laneWords p c := by simp [bufWords, Cfg.nl, h]

theorem bufWords_single (h : c.mode = .single) : bufWords p c = laneWords p c := by simp [bufWords, Cfg.nl, h]

theorem bufWords_le (p : Params) (c : Cfg) : bufWords p c ≤ 2 * laneWords p c := by
  cases h : c.mode
  · rw [bufWords_dual h]
  · rw [bufWords_single h]
    omega

theorem clkDiv_le (hp : p.legal = true) : clkDiv p c ≤ 4095 := by
  by_cases hf : c.freqOk = true
  · exact (clkDiv_spec hp hf).2.2.1
  · simp [clkDiv, hf]

/-- A lane word takes at most 32 microseconds to shift out: a slot lasts at most one (42_symbol_timer.md R172). -/
theorem waitUs_le (hp : p.legal = true) : waitUs p c ≤ 32 * laneWords p c := by
  by_cases hf : c.freqOk = true
  · obtain ⟨-, -, -, hle, -⟩ := clkDiv_spec hp hf
    have hfreq := ((Cfg.freqOk_iff c).1 hf).1
    have hosc := ((Params.legal_iff p).1 hp).1.1
    have hslot : clkDiv p c * 1000000 ≤ p.oscHz := (Nat.mul_le_mul_left _ (by omega)).trans hle
    rw [waitUs, if_pos hf, ceilDiv_le_iff (by omega)]
    calc laneWords p c * 32 * clkDiv p c * 1000000 = 32 * laneWords p c * (clkDiv p c * 1000000) := by ring
      _ ≤ 32 * laneWords p c * p.oscHz := Nat.mul_le_mul_left _ hslot
  · simp [waitUs, hf]

end Derived

/-- With an illegal frequency every derived register reads 0 (10_state.md R40 to R45). -/
theorem derivedRegisters_of_illegal {s : State} (h : ¬FreqLegal s.cfg) :
    ∀ r ∈ [Reg.clkDiv, .resetBits, .laneWords, .bufWords, .xferBytes, .waitUs], readReg r s = 0 := by
  have hf : ¬s.cfg.freqOk = true := fun hf => h ((freqOk_iff_legal s.cfg).1 hf)
  simp [readReg, clkDiv, resetBits, laneWords, bufWords, xferBytes, waitUs, hf]

theorem toNat_word_of_lt {n : Nat} (h : n < 2 ^ 32) : (BitVec.ofNat 32 n).toNat = n := by
  rw [BitVec.toNat_ofNat, Nat.mod_eq_of_lt h]

/-- Settles O32: every size is far below `2 ^ 32`. -/
theorem derivedRegistersAreExact : Obligations.DerivedRegistersAreExact := by
  intro s hp
  have hd := clkDiv_le (c := s.cfg) hp
  have hr := resetBits_le (c := s.cfg) hp
  have hu := s.cfg.resetUs.isLt
  have hl := laneWords_le (c := s.cfg) hp
  have hb := bufWords_le s.params s.cfg
  have hw := waitUs_le (c := s.cfg) hp
  refine ⟨?_, ?_, ?_, ?_, ?_, ?_, ?_, fun l => s.cfg.count_le_nmax l, nmax_attained s.cfg, s.cfg.dataWords_eq,
    laneWords_of_legal, laneWords_of_illegal, bufWords_dual, bufWords_single, rfl⟩
  · exact toNat_word_of_lt (by omega)
  · exact toNat_word_of_lt (by omega)
  · exact toNat_word_of_lt (by omega)
  · exact toNat_word_of_lt (by omega)
  · exact toNat_word_of_lt (by rw [xferBytes]; omega)
  · exact toNat_word_of_lt (by omega)
  · intro hf off hoff
    have h0 := derivedRegisters_of_illegal hf
    obtain ⟨r, hr, rfl⟩ : ∃ r ∈ [Reg.clkDiv, .resetBits, .laneWords, .bufWords, .xferBytes, .waitUs], r.offset = off :=
      List.mem_map.1 hoff
    rw [hostRead_offset]
    exact h0 r hr

/-! ### The timer and parameter registers -/

/-- Settles O33. -/
theorem timerAndParameterRegisters : Obligations.TimerAndParameterRegisters := by
  intro s hp
  have hcap : s.params.pixCap < 2 ^ 32 := by
    have := ((Params.legal_iff s.params).1 hp).2.2
    omega
  refine ⟨congrArg Prod.fst (hostRead_offset .waitRemain s), congrArg Prod.fst (hostRead_offset .armWaitUs s), fun ho => ?_, ?_⟩
  · rw [show hostRead 0x060 4 s = _ from hostRead_offset .paramOscHz s, readReg, paramOscRead, if_pos ho]
    exact toNat_word_of_lt ho
  · rw [show hostRead 0x064 4 s = _ from hostRead_offset .paramPixCap s, readReg]
    exact toNat_word_of_lt hcap

end Sys2Proof.Machine
end

section
/-! PROOFS. The operation state (10_state.md section 5): which moves change it, and that a command in progress ends. -/

namespace Sys2Proof.Machine

/-! ### What one step does to the operation -/

section OneStep

variable {s t : State}

/-- The command in progress, or none, is as it was: same configuration, same place in the buffer, and no longer wait. -/
structure OperationKept (s t : State) : Prop where
  params : t.params = s.params
  cfg : t.cfg = s.cfg
  fsm : t.fsm = s.fsm
  cursor : t.cursor = s.cursor
  inFlight : t.inFlight = s.inFlight
  waitRemain : t.waitRemain.toNat ≤ s.waitRemain.toNat

theorem OperationKept.popMove (h : OperationKept s.popMove t) : OperationKept s t := by
  obtain ⟨h1, h2, h3, h4, h5, h6⟩ := h
  simp only [popMove_params, popMove_cfg, popMove_fsm, popMove_cursor, popMove_inFlight, popMove_waitRemain] at *
  exact ⟨h1, h2, h3, h4, h5, h6⟩

/-- A pulse of `US_TICK` takes one microsecond off the wait, if one is left (42_symbol_timer.md R183). -/
theorem usTick_waitRemain_toNat (s : State) : (usTick s).waitRemain.toNat = s.waitRemain.toNat - 1 := by
  rw [usTick_waitRemain]
  split
  · next h => simp [h]
  · next h =>
    have h0 : s.waitRemain.toNat ≠ 0 := fun e => h (BitVec.eq_of_toNat_eq e)
    bv_omega

/-- While a command is in progress no host access touches it (43_commands.md R201, R192, R194). -/
theorem BlockEffect.operationKept (h : BlockEffect s t) (hw : s.fsm ≠ .idle) : OperationKept s t := by
  cases h with
  | same => exact ⟨rfl, rfl, rfl, rfl, rfl, le_rfl⟩
  | buserr => exact ⟨rfl, rfl, rfl, rfl, rfl, le_rfl⟩
  | werr => exact ⟨rfl, rfl, rfl, rfl, rfl, le_rfl⟩
  | command i t hx =>
    obtain rfl | ⟨e, -, rfl⟩ | ⟨op, -, hi, -⟩ | ⟨-, hi, -⟩ := exec_cases hx
    · exact ⟨rfl, rfl, rfl, rfl, rfl, le_rfl⟩
    · exact ⟨rfl, rfl, rfl, rfl, rfl, le_rfl⟩
    · exact absurd hi hw
    · exact absurd hi hw
  | status v => exact ⟨by simp, by simp, by simp, by simp, by simp, by simp⟩
  | config r v hi => exact absurd hi hw
  | gammaWord l k v hi => exact absurd hi hw
  | pixel l i v hi => exact absurd hi hw

theorem hostStep_operationKept (h : hostStep s = .next t) (hw : s.fsm ≠ .idle) : OperationKept s t := by
  obtain ⟨h1, h2, u, hb, rfl⟩ := hostStep_effect h
  obtain ⟨hp, hc, hf, hk, hi, hr⟩ := hb.operationKept hw
  exact ⟨hp, hc, hf, hk, hi, hr⟩

/-- Only the host, the engine and reset can touch the operation. -/
theorem step_operation_cases (h : step s = .next t) :
    (s.nextMove = .host ∧ hostStep s.popMove = .next t) ∨
    (∃ a, s.nextMove = .engine a ∧ t = engineStep a s.popMove) ∨
    (s.nextMove = .reset ∧ t = resetBlock s.popMove) ∨
    ((∀ a, s.nextMove ≠ .engine a) ∧ OperationKept s t) := by
  obtain hh | he | ⟨hm, rfl⟩ | hr | ⟨k, hm, rfl⟩ | ⟨a, hm, rfl⟩ | ⟨a, v, hm, rfl⟩ := step_cases h
  · exact .inl hh
  · exact .inr (.inl he)
  · exact .inr (.inr (.inr ⟨by simp [hm], .popMove ⟨rfl, rfl, rfl, rfl, rfl, by rw [usTick_waitRemain_toNat]; omega⟩⟩))
  · exact .inr (.inr (.inl hr))
  · rw [observeWord_frame]
    exact .inr (.inr (.inr ⟨by simp [hm], .popMove ⟨rfl, rfl, rfl, rfl, rfl, le_rfl⟩⟩))
  · rw [observeByte_frame]
    exact .inr (.inr (.inr ⟨by simp [hm], .popMove ⟨rfl, rfl, rfl, rfl, rfl, le_rfl⟩⟩))
  · exact .inr (.inr (.inr ⟨by simp [hm], .popMove ⟨rfl, rfl, rfl, rfl, rfl, le_rfl⟩⟩))

/-- A command in progress is moved on by the engine, ended by reset, and kept by every other move. -/
theorem step_of_working (h : step s = .next t) (hw : s.fsm ≠ .idle) :
    (∃ a, s.nextMove = .engine a ∧ t = engineStep a s.popMove) ∨
    (s.nextMove = .reset ∧ t = resetBlock s.popMove) ∨
    ((∀ a, s.nextMove ≠ .engine a) ∧ OperationKept s t) := by
  obtain ⟨hm, hh⟩ | h | h | h := step_operation_cases h
  · exact .inr (.inr ⟨by simp [hm], .popMove (hostStep_operationKept hh (by simpa using hw))⟩)
  · exact .inl h
  · exact .inr (.inl h)
  · exact .inr (.inr h)

/-- The host's step changes `FSM` only by a command. -/
theorem hostStep_fsm_cases (h : hostStep s = .next t) :
    t.fsm = s.fsm ∨
    ∃ v, s.host.delay = 0 ∧ s.host.program[s.host.pc]? = some (.wr 8 4 v) ∧
      exec (decodeWord v) (setHostPc (s.host.pc + 1) s) = .next t := by
  obtain hc | ⟨v, -, -, e⟩ | ⟨c, -, e⟩ | ⟨l, k, v, -, -, -, -, e⟩ | ⟨l, i, v, -, -, -, -, e⟩ | e | e | ⟨-, e⟩ := hostStep_full h
  · exact .inr hc
  all_goals refine .inl ((congrArg State.fsm e).trans ?_)
  · exact writeStatus_fsm v _
  · rfl
  · exact setGammaWord_fsm l k v _
  · exact setPix_fsm l i v _
  · rfl
  · rfl
  · rfl

/-- From `IDLE`, `FSM` changes by an accepted ENCODE or BLANK alone, to `PENDING` while the timer runs (43_commands.md R192). -/
theorem step_from_idle (h : step s = .next t) (hi : s.fsm = .idle) (hne : t.fsm ≠ .idle) :
    ∃ v, hostWrites s 0x008 v ∧ (decodeWord v = .encode ∨ decodeWord v = .blank) ∧
      (t.fsm = .pending ↔ 0 < s.waitRemain.toNat) := by
  have hi' : s.popMove.fsm = .idle := by rw [popMove_fsm, hi]
  obtain ⟨hm, hh⟩ | ⟨a, -, rfl⟩ | ⟨-, rfl⟩ | ⟨-, hk⟩ := step_operation_cases h
  · obtain e | ⟨v, hd, hp, hx⟩ := hostStep_fsm_cases hh
    · exact absurd (e.trans hi') hne
    · rw [popMove_host] at hd hp
      refine ⟨v, ⟨hm, hd, hp⟩, ?_⟩
      obtain rfl | ⟨e, -, rfl⟩ | ⟨op, rfl, -, -, hop⟩ | ⟨-, -, rfl⟩ := exec_cases hx
      · exact absurd hi' hne
      · exact absurd hi' hne
      · refine ⟨hop, ?_⟩
        have hw : (setHostPc (s.popMove.host.pc + 1) s.popMove).waitRemain = s.waitRemain := popMove_waitRemain s
        rw [accept_fsm, hw]
        by_cases h0 : s.waitRemain = 0
        · simp [h0]
        · simp only [if_neg h0, true_iff]
          exact Nat.pos_of_ne_zero fun e => h0 (BitVec.eq_of_toNat_eq e)
      · exact absurd hi' hne
  · rw [engineStep, hi'] at hne
    exact absurd hi' hne
  · exact absurd rfl hne
  · exact absurd (hk.fsm.trans hi) hne

/-- From `PENDING`, a step starts the command, resets the block, or leaves the command held (43_commands.md R196). -/
theorem step_from_pending (h : step s = .next t) (hp : s.fsm = .pending) :
    ((∃ a, s.nextMove = .engine a) ∧ s.waitRemain = 0 ∧ t.fsm = .busy ∧ t.cursor = 0) ∨
    (s.nextMove = .reset ∧ t.fsm = .idle) ∨
    (t.fsm = .pending ∧ t.waitRemain.toNat ≤ s.waitRemain.toNat ∧ ((∃ a, s.nextMove = .engine a) → s.waitRemain ≠ 0)) := by
  have hp' : s.popMove.fsm = .pending := by rw [popMove_fsm, hp]
  obtain ⟨a, hm, rfl⟩ | ⟨hm, rfl⟩ | ⟨hm, hk⟩ := step_of_working h (by simp [hp])
  · rw [engineStep, hp']
    dsimp only
    rw [popMove_waitRemain]
    split
    · next h0 => exact .inl ⟨⟨a, hm⟩, h0, rfl, rfl⟩
    · next h0 => exact .inr (.inr ⟨hp', by rw [popMove_waitRemain], fun _ => h0⟩)
  · exact .inr (.inl ⟨hm, rfl⟩)
  · exact .inr (.inr ⟨hk.fsm.trans hp, hk.waitRemain, fun ⟨a, ha⟩ => absurd ha (hm a)⟩)

/-- From `BUSY`, a step writes a word, issues a write that is not answered, or leaves the command as it is, in `BUSY`; or it ends
the command, by completion, by a refused word or by reset (43_commands.md R197 to R200). -/
theorem step_from_busy (h : step s = .next t) (hb : s.fsm = .busy) :
    (t.fsm = .busy ∧
      ((s.nextMove = .engine .ok ∧ s.cursor < bufWords s.params s.cfg ∧
          bufWords t.params t.cfg = bufWords s.params s.cfg ∧ t.cursor = s.cursor + 1) ∨
        (s.nextMove = .engine .noAnswer ∧ bufWords t.params t.cfg = bufWords s.params s.cfg ∧ t.cursor = s.cursor ∧
          t.inFlight = true) ∨
        ((∀ a, s.nextMove ≠ .engine a) ∧ OperationKept s t))) ∨
    (t.fsm = .idle ∧
      (((∃ a, s.nextMove = .engine a) ∧ bufWords s.params s.cfg ≤ s.cursor ∧ t.done = true) ∨
        (s.nextMove = .engine .error ∧ s.cursor < bufWords s.params s.cfg ∧ t.err = .busFault ∧ t.done = s.done) ∨
        s.nextMove = .reset)) := by
  obtain ⟨a, hm, rfl⟩ | ⟨hm, rfl⟩ | ⟨hm, hk⟩ := step_of_working h (by simp [hb])
  · obtain ⟨-, hn⟩ | ⟨-, hn, -⟩ | ⟨e, rfl, -, hc⟩ | ⟨e, rfl, -, hc⟩ | ⟨e, rfl, -, -⟩ | ⟨e, -, hc⟩ := engineStep_cases a s.popMove
    · exact absurd (by rw [popMove_fsm, hb]) hn
    · simp [hb] at hn
    all_goals rw [e]
    · exact .inl ⟨by simp [hb], .inl ⟨hm, by simpa using hc, by simp, by simp⟩⟩
    · exact .inr ⟨rfl, .inr (.inl ⟨hm, by simpa using hc, rfl, by simp⟩)⟩
    · exact .inl ⟨by simp [hb], .inr (.inl ⟨hm, by simp, by simp, rfl⟩)⟩
    · exact .inr ⟨rfl, .inl ⟨⟨a, hm⟩, by simpa using hc, rfl⟩⟩
  · exact .inr ⟨rfl, .inr (.inr hm)⟩
  · exact .inl ⟨hk.fsm.trans hb, .inr (.inr ⟨hm, hk⟩)⟩

end OneStep

/-! ### Runs -/

section Runs

variable {s t : State}

theorem step_next (s : State) : ∃ t, step s = .next t := doMove_next s.nextMove s.popMove

theorem core_run_zero (s : State) : core.run 0 s = .next s := rfl

theorem eq_of_core_run_zero (h : core.run 0 s = .next t) : s = t := Host.Outcome.next.inj h

theorem core_run_one (h : step s = .next t) : core.run 1 s = .next t := (core_run_succ h 0).trans (core_run_zero t)

theorem core_run_add {j : Nat} (h : core.run j s = .next t) (k : Nat) : core.run (j + k) s = core.run k t := by
  induction j generalizing s with
  | zero =>
    obtain rfl := eq_of_core_run_zero h
    rw [Nat.zero_add]
  | succ j ih =>
    obtain ⟨u, hu⟩ := step_next s
    rw [core_run_succ hu] at h
    rw [Nat.add_right_comm, core_run_succ hu, ih h]

/-- `P` holds now and after any number of steps. -/
def Forever (P : State → Prop) (s : State) : Prop := ∀ k t, core.run k s = .next t → P t

theorem Forever.now {P : State → Prop} (h : Forever P s) : P s := h 0 s rfl

theorem Forever.run {P : State → Prop} (h : Forever P s) {k : Nat} (hr : core.run k s = .next t) : Forever P t :=
  fun j u hu => h (k + j) u ((core_run_add hr j).trans hu)

theorem Forever.step {P : State → Prop} (h : Forever P s) (hs : step s = .next t) : Forever P t :=
  h.run (core_run_one hs)

/-- What holds now and is kept by every step of a run along which `Q` holds, holds along that run. -/
theorem Forever.induction {P Q : State → Prop} (hq : Forever Q s) (hs : P s)
    (hstep : ∀ u v, Q u → Q v → P u → Machine.step u = .next v → P v) : Forever P s := by
  intro k
  induction k generalizing s with
  | zero =>
    intro t h
    obtain rfl := eq_of_core_run_zero h
    exact hs
  | succ k ih =>
    intro t h
    obtain ⟨u, hu⟩ := step_next s
    rw [core_run_succ hu] at h
    exact ih (hq.step hu) (hstep s u hq.now (hq.step hu).now hs hu) t h

end Runs

/-! ### The engine and the timer move again (log entry 21) -/

section Fairness

variable {s : State}

/-- A move fixed, or in the free round now opened, is made after finitely many steps. -/
theorem exists_run_nextMove {m : Move} (h : m ∈ s.nextMove :: s.popMove.sched) :
    ∃ (k : Nat) (t : State), core.run k s = .next t ∧ t.nextMove = m := by
  induction hl : s.popMove.sched generalizing s with
  | nil =>
    rw [hl, List.mem_singleton] at h
    exact ⟨0, s, rfl, h.symm⟩
  | cons x xs ih =>
    obtain rfl | h := List.mem_cons.1 h
    · exact ⟨0, s, rfl, rfl⟩
    · obtain ⟨u, hu⟩ := step_next s
      have hs : u.sched = x :: xs := (step_sched hu).trans hl
      have hpop : u.popMove.sched = xs := by rw [popMove_cons hs]
      have hm : m ∈ u.nextMove :: u.popMove.sched := by rw [nextMove_cons hs, hpop, ← hl]; exact h
      obtain ⟨k, t, ht, hn⟩ := ih hm hpop
      exact ⟨k + 1, t, (core_run_succ hu k).trans ht, hn⟩

theorem exists_run_sched_nil (s : State) : ∃ (k : Nat) (t : State), core.run k s = .next t ∧ t.sched = [] := by
  induction hl : s.sched generalizing s with
  | nil => exact ⟨0, s, rfl, hl⟩
  | cons x xs ih =>
    obtain ⟨u, hu⟩ := step_next s
    obtain ⟨k, t, ht, hn⟩ := ih u (by rw [step_sched hu, popMove_cons hl])
    exact ⟨k + 1, t, (core_run_succ hu k).trans ht, hn⟩

/-- A move that every free round holds is made after finitely many steps, from every state. -/
theorem exists_run_of_mem_freeRound {m : Nat → Move} (hm : ∀ ix, m ix ∈ freeRound ix) (s : State) :
    ∃ (k : Nat) (t : State) (ix : Nat), core.run k s = .next t ∧ t.nextMove = m ix := by
  obtain ⟨j, u, hu, hnil⟩ := exists_run_sched_nil s
  have hmem : m u.freeIx ∈ u.nextMove :: u.popMove.sched := by
    rw [nextMove_cons_popMove, if_pos hnil]
    exact hm _
  obtain ⟨k, t, ht, hn⟩ := exists_run_nextMove hmem
  exact ⟨j + k, t, _, (core_run_add hu k).trans ht, hn⟩

theorem exists_run_engine (s : State) : ∃ (k : Nat) (t : State) (a : MemAnswer), core.run k s = .next t ∧ t.nextMove = .engine a := by
  obtain ⟨k, t, ix, ht, hn⟩ := exists_run_of_mem_freeRound engine_mem_freeRound s
  exact ⟨k, t, _, ht, hn⟩

theorem exists_run_tick (s : State) : ∃ (k : Nat) (t : State), core.run k s = .next t ∧ t.nextMove = .tick := by
  obtain ⟨k, t, -, ht, hn⟩ := exists_run_of_mem_freeRound tick_mem_freeRound s
  exact ⟨k, t, ht, hn⟩

end Fairness

/-! ### A held command starts -/

/-- While a command is held the wait does not grow (42_symbol_timer.md R183, 43_commands.md R194). -/
theorem waitRemain_le_of_pending {s : State} (h : Forever (fun u => u.fsm = .pending) s) :
    Forever (fun u => u.waitRemain.toNat ≤ s.waitRemain.toNat) s := by
  refine h.induction le_rfl fun u v hu hv hle hs => ?_
  obtain ⟨-, -, hb, -⟩ | ⟨-, hi⟩ | ⟨-, hw, -⟩ := step_from_pending hs hu
  · simp [hb] at hv
  · simp [hi] at hv
  · exact hw.trans hle

/-- No command is held for ever: by induction on the wait left, which the next tick lowers; at 0 the engine's next move starts
the command. -/
theorem not_forever_pending (s : State) : ¬Forever (fun u => u.fsm = .pending) s := by
  induction hn : s.waitRemain.toNat using Nat.strong_induction_on generalizing s with
  | _ n ih =>
    subst hn
    intro h
    by_cases h0 : s.waitRemain.toNat = 0
    · obtain ⟨k, t, a, hr, hm⟩ := exists_run_engine s
      obtain ⟨u, hu⟩ := step_next t
      have hw : t.waitRemain.toNat ≤ s.waitRemain.toNat := waitRemain_le_of_pending h k t hr
      have hp : u.fsm = .pending := ((h.run hr).step hu).now
      obtain ⟨-, -, hb, -⟩ | ⟨-, hi⟩ | ⟨-, -, hne⟩ := step_from_pending hu (h.run hr).now
      · simp [hb] at hp
      · simp [hi] at hp
      · exact hne ⟨a, hm⟩ (BitVec.eq_of_toNat_eq (show t.waitRemain.toNat = 0 by omega))
    · obtain ⟨k, t, hr, hm⟩ := exists_run_tick s
      have hw : t.waitRemain.toNat ≤ s.waitRemain.toNat := waitRemain_le_of_pending h k t hr
      have hu : step t = .next (usTick t.popMove) := by rw [step_eq, hm]; rfl
      refine ih _ ?_ (usTick t.popMove) rfl ((h.run hr).step hu)
      rw [usTick_waitRemain_toNat, popMove_waitRemain]
      omega

/-! ### A running command ends, or waits for an answer for ever -/

/-- The words of the output buffer still to be written. -/
def wordsLeft (s : State) : Nat := bufWords s.params s.cfg - s.cursor

/-- The engine is `BUSY` with a write in flight, and its next move, if it is the engine's, brings no answer. -/
def Unanswered (s : State) : Prop := s.fsm = .busy ∧ s.inFlight = true ∧ ∀ a, s.nextMove = .engine a → a = .noAnswer

/-- A step of a command that stays in `BUSY`: a word acknowledged and one fewer to write, or no answer and a write in flight, or
a move of another agent. -/
theorem step_stays_busy {s t : State} (h : step s = .next t) (hs : s.fsm = .busy) (ht : t.fsm = .busy) :
    (s.nextMove = .engine .ok ∧ wordsLeft t < wordsLeft s) ∨
    (s.nextMove = .engine .noAnswer ∧ wordsLeft t = wordsLeft s ∧ t.inFlight = true) ∨
    ((∀ a, s.nextMove ≠ .engine a) ∧ wordsLeft t = wordsLeft s ∧ t.inFlight = s.inFlight) := by
  unfold wordsLeft
  obtain ⟨-, ⟨hm, hc, hw, hk⟩ | ⟨hm, hw, hk, hf⟩ | ⟨hm, hk⟩⟩ | ⟨hi, -⟩ := step_from_busy h hs
  · exact .inl ⟨hm, by omega⟩
  · exact .inr (.inl ⟨hm, by omega, hf⟩)
  · exact .inr (.inr ⟨hm, by rw [hk.params, hk.cfg, hk.cursor], hk.inFlight⟩)
  · simp [hi] at ht

theorem wordsLeft_le_of_busy {s : State} (h : Forever (fun u => u.fsm = .busy) s) :
    Forever (fun u => wordsLeft u ≤ wordsLeft s) s := by
  refine h.induction le_rfl fun u v hu hv hle hs => ?_
  obtain ⟨-, hw⟩ | ⟨-, hw, -⟩ | ⟨-, hw, -⟩ := step_stays_busy hs hu hv <;> omega

/-- A command that stays in `BUSY` and has no word acknowledged any more has a write unanswered from the engine's next move on. -/
theorem eventually_unanswered_of_no_ok {s : State} (h : Forever (fun u => u.fsm = .busy ∧ u.nextMove ≠ .engine .ok) s) :
    ∃ (k : Nat) (t : State), core.run k s = .next t ∧ Forever Unanswered t := by
  have hanswer : ∀ u v, u.fsm = .busy ∧ u.nextMove ≠ .engine .ok → v.fsm = .busy → step u = .next v →
      (∀ a, u.nextMove = .engine a → a = .noAnswer ∧ v.inFlight = true) ∧ (u.inFlight = true → v.inFlight = true) := by
    intro u v ⟨hu, hok⟩ hv hs
    obtain ⟨hm, -⟩ | ⟨hm, -, hf⟩ | ⟨hm, -, hf⟩ := step_stays_busy hs hu hv
    · exact absurd hm hok
    · exact ⟨fun a ha => ⟨by simpa using ha.symm.trans hm, hf⟩, fun _ => hf⟩
    · exact ⟨fun a ha => absurd ha (hm a), fun e => hf.trans e⟩
  obtain ⟨k, t, a, hr, hm⟩ := exists_run_engine s
  obtain ⟨u, hu⟩ := step_next t
  have hu' := (h.run hr).step hu
  have hflight : Forever (fun v => v.inFlight = true) u :=
    hu'.induction ((hanswer t u (h.run hr).now hu'.now.1 hu).1 a hm).2 fun v w hv hw => fun hf hs => (hanswer v w hv hw.1 hs).2 hf
  refine ⟨k + 1, u, (core_run_add hr 1).trans (core_run_one hu), fun j v hv => ?_⟩
  obtain ⟨w, hw⟩ := step_next v
  have hv' := hu'.run hv
  exact ⟨hv'.now.1, hflight j v hv, fun a ha => ((hanswer v w hv'.now (hv'.step hw).now.1 hw).1 a ha).1⟩

/-- A command that stays in `BUSY` has a write unanswered for ever from some step on: by induction on the words left, one fewer
after each word acknowledged. -/
theorem eventually_unanswered {s : State} (h : Forever (fun u => u.fsm = .busy) s) :
    ∃ (k : Nat) (t : State), core.run k s = .next t ∧ Forever Unanswered t := by
  induction hn : wordsLeft s using Nat.strong_induction_on generalizing s with
  | _ n ih =>
    subst hn
    by_cases hok : ∃ (k : Nat) (t : State), core.run k s = .next t ∧ t.nextMove = .engine .ok
    · obtain ⟨k, t, hr, hm⟩ := hok
      obtain ⟨u, hu⟩ := step_next t
      have hb := (h.run hr).step hu
      have hle : wordsLeft t ≤ wordsLeft s := wordsLeft_le_of_busy h k t hr
      have hlt : wordsLeft u < wordsLeft s := by
        obtain ⟨-, hw⟩ | ⟨hm', -⟩ | ⟨hm', -⟩ := step_stays_busy hu (h.run hr).now hb.now
        · omega
        · simp [hm] at hm'
        · exact absurd hm (hm' _)
      obtain ⟨j, v, hv, hstuck⟩ := ih _ hlt hb rfl
      exact ⟨k + (j + 1), v, (core_run_add hr _).trans ((core_run_succ hu j).trans hv), hstuck⟩
    · exact eventually_unanswered_of_no_ok fun k t hr => ⟨h k t hr, fun hm => hok ⟨k, t, hr, hm⟩⟩

/-- A command that never reaches `IDLE` stays in `BUSY`. -/
theorem forever_busy_of_not_idle {s : State} (hb : s.fsm = .busy) (h : Forever (fun u => u.fsm ≠ .idle) s) :
    Forever (fun u => u.fsm = .busy) s :=
  h.induction hb fun _ _ _ hv hu hs => (step_from_busy hs hu).elim (·.1) fun hi => absurd hi.1 hv

/-- Settles O19: the two liveness clauses from the fairness of the engine and the tick, the transitions state by state. -/
theorem operationStateTransitions : Obligations.OperationStateTransitions := by
  refine ⟨fun s _ => ?_, fun s hb => ?_, fun s t h hne => ⟨fun hi => ?_, fun hp => ?_, fun hb => ?_⟩⟩
  · by_contra hall
    push Not at hall
    exact not_forever_pending s hall
  · by_contra hnot
    push Not at hnot
    obtain ⟨hidle, hnot⟩ := hnot
    obtain ⟨k, u, hr, hu⟩ := eventually_unanswered (forever_busy_of_not_idle hb hidle)
    obtain ⟨j, t, hj, ht, hstuck⟩ := hnot k
    obtain ⟨i, rfl⟩ := Nat.exists_eq_add_of_le hj
    obtain ⟨hf, hw, hm⟩ := hu i t ((core_run_add hr i).symm.trans ht)
    obtain ⟨a, ha, hna⟩ := hstuck hf hw
    exact hna (hm a ha)
  · exact step_from_idle h hi (hi ▸ hne)
  · obtain ⟨hm, hw, hb, hc⟩ | hr | ⟨hk, -⟩ := step_from_pending h hp
    · exact .inl ⟨hm, by rw [hw]; rfl, hb, hc⟩
    · exact .inr hr
    · exact absurd (hk.trans hp.symm) hne
  · obtain ⟨hk, -⟩ | hend := step_from_busy h hb
    · exact absurd (hk.trans hb.symm) hne
    · exact hend

end Sys2Proof.Machine
end

section
/-! PROOFS. The output bus space (20_memory.md): which bytes a step changes, what a running command has written, and
what an outside observer sees. -/

namespace Sys2Proof.Machine

/-! ### What a step does to the bus space -/

section BusSpace

variable {s t : State}

/-- No host access reaches the output bus space: the window is elsewhere. -/
theorem BlockEffect.mem_eq (h : BlockEffect s t) : t.mem = s.mem := by
  cases h with
  | command i t hx => obtain rfl | ⟨e, -, rfl⟩ | ⟨op, rfl, -⟩ | ⟨-, -, rfl⟩ := exec_cases hx <;> simp
  | _ => simp

theorem hostStep_mem (h : hostStep s = .next t) : t.mem = s.mem := by
  obtain ⟨h1, h2, u, hb, rfl⟩ := hostStep_effect h
  exact hb.mem_eq

/-- The engine writes no word but the one at the cursor, and only while there is one. -/
theorem engineStep_mem_cases (a : MemAnswer) (s : State) :
    (engineStep a s).mem = s.mem ∨
    (s.fsm = .busy ∧ s.cursor < bufWords s.params s.cfg ∧ ∃ v, (engineStep a s).mem = s.mem.writeWord s.curAddr.toNat v) := by
  obtain ⟨e, -⟩ | ⟨e, -⟩ | ⟨e, -, hb, hc⟩ | ⟨e, -, hb, hc⟩ | ⟨e, -⟩ | ⟨e, -⟩ := engineStep_cases a s <;> rw [e]
  · exact .inl rfl
  · exact .inl rfl
  · exact .inr ⟨hb, hc, _, wordDone_mem s⟩
  · exact .inr ⟨hb, hc, _, wordFault_mem s⟩
  · exact .inl rfl
  · exact .inl rfl

/-- A reset writes no word but the one in flight, which is the one at the cursor (70_reset_and_hazards.md R242). -/
theorem Inv.resetBlock_mem_cases (h : Inv s) :
    (Machine.resetBlock s).mem = s.mem ∨
    (s.fsm = .busy ∧ s.cursor < bufWords s.params s.cfg ∧ ∃ v, (Machine.resetBlock s).mem = s.mem.writeWord s.curAddr.toNat v) := by
  rw [Machine.resetBlock, clearBlock_mem]
  obtain e | ⟨hf, e⟩ := settleInFlight_mem s
  · exact .inl e
  · obtain ⟨hb, hc⟩ := h.inFlight hf
    exact .inr ⟨hb, hc, _, e⟩

/-- A step leaves the bus space alone, or another master writes one byte, or the engine or a reset writes the word at the cursor. -/
theorem step_mem_cases (hs : Inv s) (h : step s = .next t) :
    t.mem = s.mem ∨
    (∃ a v, s.nextMove = .outsideWrite a v ∧ t.mem = s.mem.write a.toNat v) ∨
    (((∃ a, s.nextMove = .engine a) ∨ s.nextMove = .reset) ∧ s.fsm = .busy ∧ s.cursor < bufWords s.params s.cfg ∧
      ∃ v, t.mem = s.mem.writeWord (s.cfg.outAddr s.cursor).toNat v) := by
  have he := fun a => engineStep_mem_cases a s.popMove
  have hr := hs.popMove.resetBlock_mem_cases
  simp only [popMove_mem, popMove_fsm, popMove_cursor, popMove_params, popMove_cfg, popMove_curAddr] at he hr
  obtain ⟨-, h⟩ | ⟨a, hm, rfl⟩ | ⟨-, rfl⟩ | ⟨hm, rfl⟩ | ⟨k, -, rfl⟩ | ⟨a, -, rfl⟩ | ⟨a, v, hm, rfl⟩ := step_cases h
  · exact .inl ((hostStep_mem h).trans (popMove_mem s))
  · exact (he a).imp id fun hw => .inr ⟨.inl ⟨a, hm⟩, hw⟩
  · exact .inl (popMove_mem s)
  · exact hr.imp id fun hw => .inr ⟨.inr hm, hw⟩
  · rw [observeWord_frame]
    exact .inl (popMove_mem s)
  · rw [observeByte_frame]
    exact .inl (popMove_mem s)
  · exact .inr (.inl ⟨a, v, hm, congrArg (Memory.write · a.toNat v) (popMove_mem s)⟩)

theorem Inv.capOk (h : Inv s) (hw : s.fsm ≠ .idle) : capOk s.params s.cfg = true := (capOk_of_cfgOk (h.accepted hw)).2

end BusSpace

/-- Settles O49: a word written by the block is the one at the cursor, which lies in the buffer because the configuration was
accepted. -/
theorem blockWritesOnlyItsBuffer : Obligations.BlockWritesOnlyItsBuffer := by
  intro s t a hs h hne
  obtain e | ⟨addr, v, hm, e⟩ | ⟨hm, hb, hc, v, e⟩ := step_mem_cases hs h
  · exact absurd (by rw [e]) hne
  · rw [e, Memory.read_write] at hne ⊢
    have ha : a = addr.toNat := by
      by_contra hn
      exact hne (if_neg hn)
    exact .inl ⟨addr, v, hm, ha.symm, if_pos ha⟩
  · have hin : inWord (s.cfg.outAddr s.cursor) a := by
      by_contra hn
      rw [e, Memory.read_writeWord] at hne
      exact hne (if_neg hn)
    have hcap := hs.capOk (by simp [hb])
    have hfit := (capOk_bounds hcap).1
    have haddr := outAddr_of_capOk hcap hc
    have ⟨hlo, hhi⟩ := hin
    exact .inr ⟨hm, hb, hc, hin, by omega, by omega, by omega⟩

/-! ### The words a running command has written -/

section Written

variable {s t : State}

/-- What the output words are made of is as it was: the command, the configuration and the RAM contents. -/
structure SourcesKept (s t : State) : Prop where
  cfg : t.cfg = s.cfg
  curOp : t.curOp = s.curOp
  draw : t.draw = s.draw
  pixRam : t.pixRam = s.pixRam
  gammaRam : t.gammaRam = s.gammaRam

theorem SourcesKept.outWord_eq (h : SourcesKept s t) (c : Nat) : outWord t t.curOp c = outWord s s.curOp c := by
  obtain ⟨hc, ho, hd, hp, hg⟩ := h
  rw [ho, outWord_congr hc hd hp hg]

theorem SourcesKept.popMove (h : SourcesKept s.popMove t) : SourcesKept s t := by
  obtain ⟨hc, ho, hd, hp, hg⟩ := h
  rw [popMove_frame s] at hc ho hd hp hg
  exact ⟨hc, ho, hd, hp, hg⟩

/-- While a command is in progress no host access touches what its words are made of (43_commands.md R201, R206). -/
theorem BlockEffect.sourcesKept (h : BlockEffect s t) (hw : s.fsm ≠ .idle) : SourcesKept s t := by
  cases h with
  | same => exact ⟨rfl, rfl, rfl, rfl, rfl⟩
  | buserr => exact ⟨rfl, rfl, rfl, rfl, rfl⟩
  | werr => exact ⟨rfl, rfl, rfl, rfl, rfl⟩
  | command i t hx =>
    obtain rfl | ⟨e, -, rfl⟩ | ⟨op, -, hi, -⟩ | ⟨-, hi, -⟩ := exec_cases hx
    · exact ⟨rfl, rfl, rfl, rfl, rfl⟩
    · exact ⟨rfl, rfl, rfl, rfl, rfl⟩
    · exact absurd hi hw
    · exact absurd hi hw
  | status v => exact ⟨by simp, by simp, by simp, pixRam_congr (by simp) (by simp), gammaRam_congr (by simp) (by simp)⟩
  | config r v hi => exact absurd hi hw
  | gammaWord l k v hi => exact absurd hi hw
  | pixel l i v hi => exact absurd hi hw

theorem hostStep_sourcesKept (h : hostStep s = .next t) (hw : s.fsm ≠ .idle) : SourcesKept s t := by
  obtain ⟨h1, h2, u, hb, rfl⟩ := hostStep_effect h
  obtain ⟨hc, ho, hd, hp, hg⟩ := hb.sourcesKept hw
  exact ⟨hc, ho, hd, hp, hg⟩

theorem engineStep_sourcesKept (a : MemAnswer) (s : State) : SourcesKept s (engineStep a s) := by
  obtain ⟨e, -⟩ | ⟨e, -⟩ | ⟨e, -⟩ | ⟨e, -⟩ | ⟨e, -⟩ | ⟨e, -⟩ := engineStep_cases a s <;> rw [e] <;>
    exact ⟨rfl, rfl, rfl, rfl, rfl⟩

/-- While a command is in progress nothing but a reset touches what its words are made of. -/
theorem step_sourcesKept (h : step s = .next t) (hw : s.fsm ≠ .idle) (hr : s.nextMove ≠ .reset) : SourcesKept s t := by
  refine .popMove ?_
  obtain ⟨-, h⟩ | ⟨a, -, rfl⟩ | ⟨-, rfl⟩ | ⟨hm, -⟩ | ⟨k, -, rfl⟩ | ⟨a, -, rfl⟩ | ⟨a, v, -, rfl⟩ := step_cases h
  · exact hostStep_sourcesKept h (by simpa using hw)
  · exact engineStep_sourcesKept a _
  · exact ⟨rfl, rfl, rfl, rfl, rfl⟩
  · exact absurd hm hr
  · rw [observeWord_frame]
    exact ⟨rfl, rfl, rfl, rfl, rfl⟩
  · rw [observeByte_frame]
    exact ⟨rfl, rfl, rfl, rfl, rfl⟩
  · exact ⟨rfl, rfl, rfl, rfl, rfl⟩

@[simp] theorem resetBlock_fsm (s : State) : (resetBlock s).fsm = .idle := rfl

/-- A command enters `BUSY` at word 0 (43_commands.md R192, R196). -/
theorem step_into_busy_cursor (h : step s = .next t) (hs : s.fsm ≠ .busy) (ht : t.fsm = .busy) : t.cursor = 0 := by
  have hs' : s.popMove.fsm ≠ .busy := by rwa [popMove_fsm]
  obtain ⟨-, hh⟩ | ⟨a, -, rfl⟩ | ⟨-, rfl⟩ | ⟨-, hk⟩ := step_operation_cases h
  · obtain e | ⟨v, -, -, hx⟩ := hostStep_fsm_cases hh
    · exact absurd (e.symm.trans ht) hs'
    · obtain rfl | ⟨e, -, rfl⟩ | ⟨op, rfl, -⟩ | ⟨-, -, rfl⟩ := exec_cases hx
      · exact absurd ht hs'
      · exact absurd ht hs'
      · rw [accept_cursor]
        rw [accept_fsm] at ht
        split_ifs at ht ⊢
        rfl
      · exact absurd ht hs'
  · obtain ⟨e, hn⟩ | ⟨e, -⟩ | ⟨-, -, hb, -⟩ | ⟨-, -, hb, -⟩ | ⟨-, -, hb, -⟩ | ⟨-, hb, -⟩ := engineStep_cases a s.popMove
    · rw [e] at ht
      exact absurd ht hn
    · rw [e, startHeld_cursor]
    all_goals exact absurd hb hs'
  · exact absurd ((resetBlock_fsm _).symm.trans ht) nofun
  · exact absurd (hk.fsm.symm.trans ht) hs

/-- The block writes no word before the cursor, since the words of a buffer do not overlap. -/
theorem step_busWord_before_cursor (hs : Inv s) (hout : ∀ a v, s.nextMove ≠ .outsideWrite a v) (h : step s = .next t)
    (hb : s.fsm = .busy) {c : Nat} (hc : c < s.cursor) :
    t.busWord (s.cfg.outAddr c).toNat = s.busWord (s.cfg.outAddr c).toNat := by
  obtain e | ⟨a, v, hm, -⟩ | ⟨-, -, hk, v, e⟩ := step_mem_cases hs h
  · exact busWord_of_mem_eq e _
  · exact absurd hm (hout a v)
  · have hd := outAddr_disjoint (hs.capOk (by simp [hb])) (hc.trans hk) hk hc.ne
    refine busWord_congr fun b hlo hhi => ?_
    rw [e, Memory.read_writeWord_ne _ _ (by omega)]

/-- An acknowledged word step (43_commands.md R197). -/
theorem step_of_ok (hm : s.nextMove = .engine .ok) (hb : s.fsm = .busy) (hc : s.cursor < bufWords s.params s.cfg) :
    step s = .next (wordDone s.popMove) := by
  simp [step_eq, hm, doMove, engineStep, wordStep, hb, hc]

/-- The word just acknowledged is in memory (43_commands.md R197). -/
theorem step_of_ok_busWord (h : step s = .next t) (hm : s.nextMove = .engine .ok) (hb : s.fsm = .busy)
    (hc : s.cursor < bufWords s.params s.cfg) :
    t.busWord (s.cfg.outAddr s.cursor).toNat = outWord s s.curOp s.cursor := by
  obtain rfl : wordDone s.popMove = t := Host.Outcome.next.inj ((step_of_ok hm hb hc).symm.trans h)
  refine busWord_of_writeWord (m := s.mem) ?_
  rw [wordDone_mem, popMove_mem, popMove_curAddr, popMove_curWord]

end Written

/-- Settles O50: the words before the cursor are not written again, and the cursor passes a word only as that word is written. -/
theorem stepKeepsWrittenWords : Obligations.StepKeepsWrittenWords := by
  intro s t hs hbuf hout h ht c hc
  by_cases hb : s.fsm = .busy
  case neg => exact absurd hc (by rw [step_into_busy_cursor h hb ht]; exact Nat.not_lt_zero c)
  have hreset : s.nextMove ≠ .reset := fun hm => by
    rw [step_eq, hm] at h
    obtain rfl := Host.Outcome.next.inj h
    exact absurd ((resetBlock_fsm _).symm.trans ht) nofun
  have hkept := step_sourcesKept h (by simp [hb]) hreset
  rw [hkept.outWord_eq, hkept.cfg]
  have hold : c < s.cursor → t.busWord (s.cfg.outAddr c).toNat = outWord s s.curOp c := fun hlt =>
    (step_busWord_before_cursor hs hout h hb hlt).trans (hbuf hb c hlt)
  obtain ⟨-, ⟨hm, hk, -, e⟩ | ⟨-, -, e, -⟩ | ⟨-, hop⟩⟩ | ⟨hi, -⟩ := step_from_busy h hb
  · obtain hlt | rfl : c < s.cursor ∨ c = s.cursor := by omega
    · exact hold hlt
    · exact step_of_ok_busWord h hm hb hk
  · exact hold (e ▸ hc)
  · exact hold (hop.cursor ▸ hc)
  · simp [hi] at ht

/-! ### What an outside observer sees -/

/-- Byte `b` of a word of the bus space is the byte at its address plus `b` (20_memory.md R73). -/
theorem wordByte_busWord (s : State) (a : Nat) {b : Nat} (hb : b < 4) : wordByte (s.busWord a) b = s.busByte (a + b) := by
  unfold State.busWord
  interval_cases b
  · exact wordByte_wordOfBytes_0 ..
  · exact wordByte_wordOfBytes_1 ..
  · exact wordByte_wordOfBytes_2 ..
  · exact wordByte_wordOfBytes_3 ..

theorem wordAddr_toNat (k : BitVec 30) : (k ++ 0#2 : Word).toNat = 4 * k.toNat := by
  rw [toNat_append_eq]
  simp [Nat.mul_comm]

theorem popMove_busWord (s : State) (a : Nat) : s.popMove.busWord a = s.busWord a := busWord_of_mem_eq (popMove_mem s) a

/-- What is observed as the next move, in terms of the state before it (20_memory.md R78, R80). -/
theorem observedWord_popMove (k : BitVec 30) (s : State) :
    (observedWord k s.popMove).1 = s.busWord (4 * k.toNat) ∨
    (s.inFlight = true ∧ (s.cfg.outAddr s.cursor).toNat = 4 * k.toNat ∧
      (observedWord k s.popMove).1 = outWord s s.curOp s.cursor) := by
  rw [← wordAddr_toNat, ← popMove_busWord, ← popMove_inFlight, ← popMove_curAddr, ← popMove_curWord]
  exact (observedWord_cases k s.popMove).1.imp id fun ⟨hf, ha, hw⟩ => ⟨hf, by rw [ha], hw⟩

/-- The word that holds a byte, and the byte's place in it. -/
theorem byteAddr_split (a : Word) :
    4 * (a.extractLsb' 2 30).toNat + a.toNat % 4 = a.toNat ∧ (a.extractLsb' 0 2).toNat = a.toNat % 4 := by
  have ha := a.isLt
  simp only [BitVec.extractLsb'_toNat, Nat.shiftRight_eq_div_pow]
  omega

/-- Settles O56: a word as it is observed, and a byte as a byte of the observed word that holds it. -/
theorem observerSeesOldOrNewWord : Obligations.ObserverSeesOldOrNewWord := by
  refine ⟨fun s k hm => ⟨(observeWord k s.popMove).seen, (observeWord k s.popMove).freeIx, ?_, observedWord_popMove k s⟩,
    fun s a hm => ⟨(observeByte a s.popMove).seen, (observeByte a s.popMove).freeIx, ?_, ?_⟩⟩
  · rw [step_eq, hm]
    exact congrArg Host.Outcome.next (observeWord_frame k s.popMove)
  · rw [step_eq, hm]
    exact congrArg Host.Outcome.next (observeByte_frame a s.popMove)
  · obtain ⟨hsplit, hlow⟩ := byteAddr_split a
    have hseen : (observeByte a s.popMove).seen =
        0#24 ++ wordByte (observedWord (a.extractLsb' 2 30) s.popMove).1 (a.toNat % 4) := by rw [← hlow]; rfl
    have hlt : a.toNat % 4 < 4 := Nat.mod_lt _ (by decide)
    rw [hseen]
    obtain e | ⟨hf, haddr, e⟩ := observedWord_popMove (a.extractLsb' 2 30) s <;> rw [e]
    · exact .inl (by rw [wordByte_busWord _ _ hlt, hsplit])
    · exact .inr ⟨hf, ⟨by omega, by omega⟩, rfl⟩

end Sys2Proof.Machine
end

section
/-! PROOFS. The encoding of the commands (30_encoding.md section 1): the decoder undoes the encoder and reads bits 3:0 alone. -/

namespace Sys2Proof

open Sys2Proof.Machine

/-- Each row's opcodes lead back to that row: a reserved row's own range keeps it apart from the others (30_encoding.md R91). -/
theorem decodeOp_op {i : Instr} (h : i.wellFormed = true) : decodeOp i.op = i := by
  cases i with
  | nop => rfl
  | encode => rfl
  | blank => rfl
  | armed => rfl
  | reservedLow op => revert op; decide
  | reservedHigh op => revert op; decide

theorem decodeWord_encodeWord {i : Instr} (h : i.wellFormed = true) : decodeWord (encodeWord i) = i := by
  rw [decodeWord, encodeWord, extract_low4, decodeOp_op h]

/-- Settles O1: the bytes are those of the command's own word, whose opcode leads back to the command. -/
theorem decodeAfterEncode : Obligations.DecodeAfterEncode := by
  intro i rest h
  rw [encode, decode_bytesOfWord, decodeWord_encodeWord h]

/-- Settles O2: the command of a word is that of the opcode in its low four bits. -/
theorem decoderReadsOpcodeAlone : Obligations.DecoderReadsOpcodeAlone := by
  refine fun w => ⟨(decodeOp_spec _).2, (Laws.and_low4_of_decodeWord rfl).symm, fun w' h => ?_⟩
  exact decodeWord_of_low4 (h.trans (and_low4 w))

/-- Settles O3: the six words are constants, which the decoder evaluates. -/
theorem decodeWrittenOutWords : Obligations.DecodeWrittenOutWords := by
  unfold Obligations.DecodeWrittenOutWords
  decide

end Sys2Proof
end

section
/-! PROOFS. The host's program (30_encoding.md section 6): what each statement does, and what a listing stands for. -/

namespace Sys2Proof.Machine

/-! ### One statement -/

/-- The host's step runs the statement the host is at. -/
theorem step_of_hostStmt {s : State} {st : Stmt} (hm : s.nextMove = .host) (hd : s.host.delay = 0)
    (h : s.host.program[s.host.pc]? = some st) : step s = runStmt st s.host.pc s.popMove := by
  simp [step_eq, hm, doMove, hostStep, hd, h]

/-- Which moves are fixed makes no difference to the value a host read returns. -/
theorem hostRead_popMove_value (off n : Nat) (s : State) : (hostRead off n s.popMove).1 = (hostRead off n s).1 := by
  rw [popMove_frame]
  have hplace : ∀ ms ix, placeOf { s with sched := ms, freeIx := ix } off n = placeOf s off n := fun _ _ => rfl
  simp only [hostRead, hplace]
  cases placeOf s off n <;> rfl

/-- A read made as the next move, with the host's place set after it: the block as the read leaves it, and of the host only its
place and the value read. -/
theorem setHostPc_readInto_popMove (pc off n : Nat) (s : State) :
    setHostPc pc (readInto off n s.popMove) =
      { (hostRead off n s.popMove).2 with host := { s.host with pc := pc, readData := (hostRead off n s).1 } } := by
  rw [← hostRead_popMove_value, ← popMove_host]
  rfl

/-- A `POLL` sets the host's place in either case: where the value does not match, to where the host is already (R97). -/
theorem runStmt_poll (off : Nat) (m v : Word) (s : State) :
    runStmt (.poll off m v) s.host.pc s =
      .next (setHostPc (if (hostRead off 4 s).1 &&& m = v then s.host.pc + 1 else s.host.pc) (readInto off 4 s)) := by
  have hvalue : (readInto off 4 s).host.readData = (hostRead off 4 s).1 := rfl
  simp only [runStmt, hvalue]
  split_ifs <;> rfl

theorem runStmt_bne (off : Nat) (m v : Word) (target pc : Nat) (s : State) :
    runStmt (.bne off m v target) pc s =
      .next (setHostPc (if (hostRead off 4 s).1 &&& m = v then pc + 1 else target) (readInto off 4 s)) := rfl

/-- Settles O59, statement by statement. -/
theorem hostStatements : Obligations.HostStatements := by
  intro s hm hd
  refine ⟨fun off n v h => ?_, fun off n h => ?_, fun off m v h => ?_, fun off m v target h => ?_, fun us h => ?_⟩ <;>
    rw [step_of_hostStmt hm hd h]
  · rw [runStmt, setHostPc, popMove_host]
  · rw [runStmt, setHostPc_readInto_popMove]
  · rw [← popMove_host, runStmt_poll, setHostPc_readInto_popMove, hostRead_popMove_value, popMove_host]
  · rw [runStmt_bne, setHostPc_readInto_popMove, hostRead_popMove_value]
  · rw [runStmt, popMove_host]

/-! ### The listing -/

/-- A word as a number, byte by byte (20_memory.md R73). -/
theorem wordOfBytes_toNat (b0 b1 b2 b3 : Byte) :
    (wordOfBytes b0 b1 b2 b3).toNat = b0.toNat + 2 ^ 8 * b1.toNat + 2 ^ 16 * b2.toNat + 2 ^ 24 * b3.toNat := by
  simp only [wordOfBytes, toNat_append_eq]
  omega

/-- Settles O60: each expansion by evaluation, and a gamma word from its four entries. -/
theorem pseudoInstructionExpansions : Obligations.PseudoInstructionExpansions := by
  exact ⟨rfl, fun l count layout ctl => rfl, fun l k e0 e1 e2 e3 => ⟨_, rfl, wordOfBytes_toNat e0 e1 e2 e3⟩⟩

end Sys2Proof.Machine
end

section
/-! PROOFS. The pixel pipeline (40_pixel_pipeline.md): layout, gamma and brightness of an ENCODE byte, and BLANK, which reads none
of them. -/

namespace Sys2Proof.Machine

/-! ### Layout extraction -/

theorem extractByte_toNat (p : Word) (sh : BitVec 5) : (extractByte p sh).toNat = p.toNat / 2 ^ sh.toNat % 256 := by
  simp [extractByte, Nat.shiftRight_eq_div_pow]

theorem extractByte_getLsbD (p : Word) (sh : BitVec 5) {k : Nat} (hk : k < 8) :
    (extractByte p sh).getLsbD k = p.getLsbD (sh.toNat + k) := by
  simp [extractByte, hk]

/-- Settles O34: a bit of the word at 32 or above is 0. -/
theorem extractTakesTheByteAtTheShift : Obligations.ExtractTakesTheByteAtTheShift := by
  refine fun p sh => ⟨extractByte_toNat p sh, fun k hk => ?_⟩
  rw [extractByte_getLsbD p sh hk]
  by_cases h : sh.toNat + k < 32
  · simp [h]
  · simp [h, BitVec.getLsbD_of_ge p _ (Nat.le_of_not_lt h)]

/-- `SH0` to `SH3` in bits 4:0, 12:8, 20:16 and 28:24 of `Lx_LAYOUT` (10_state.md R38). -/
theorem layoutWord_shiftField (x : Lane) {j : Nat} (hj : j < 4) : x.layoutWord.extractLsb' (8 * j) 5 = x.sh j := by
  refine BitVec.eq_of_getLsbD_eq fun i hi => ?_
  simp only [Lane.layoutWord, BitVec.getLsbD_append, BitVec.getLsbD_extractLsb']
  interval_cases j <;> interval_cases i <;> simp [Lane.sh]

/-! ### Gamma and brightness -/

/-- The quotient fits in a byte, as the product is at most `g · 255` (R124). -/
theorem scaleByte_toNat (bright g : Byte) : (scaleByte bright g).toNat = g.toNat * bright.toNat / 255 := by
  have hle : g.toNat * bright.toNat ≤ g.toNat * 255 := Nat.mul_le_mul_left _ (by omega)
  rw [scaleByte, BitVec.toNat_ofNat, Nat.mod_eq_of_lt (by omega)]

theorem brightOf_toNat (s : State) (l : LaneId) (g : Byte) :
    (brightOf s l g).toNat = g.toNat * (s.cfg.lane l).bright.toNat / 255 := scaleByte_toNat _ g

/-- Settles O35, each corner case from the quotient. -/
theorem brightnessScaleIsExact : Obligations.BrightnessScaleIsExact := by
  intro s l g
  have hq := brightOf_toNat s l g
  have hle : g.toNat * (s.cfg.lane l).bright.toNat ≤ g.toNat * 255 := Nat.mul_le_mul_left _ (by omega)
  refine ⟨hq, by omega, fun hb => ?_, fun hb => ?_, fun hg => ?_⟩ <;> apply BitVec.eq_of_toNat_eq <;> rw [hq]
  · simp [hb]
  · simp [hb]
  · simp [hg]

/-- Settles O36: the shift read from `Lx_LAYOUT` is the transmit slot's own, and the byte it takes is adjusted. -/
theorem encodeByteIsGammaThenBrightness : Obligations.EncodeByteIsGammaThenBrightness := by
  intro s l i j raw hj hraw
  have hread : (hostRead (0x024 + 0x10 * l.idx) 4 s).1 = (s.cfg.lane l).layoutWord :=
    congrArg Prod.fst (hostRead_offset (.layout l) s)
  have hbyte : extractByte (s.pix l i) ((s.cfg.lane l).sh j) = raw := by
    rw [hread, layoutWord_shiftField _ hj, ← extractByte_toNat] at hraw
    exact (BitVec.eq_of_toNat_eq hraw).symm
  rw [colourByte, hbyte, adjust, brightOf_toNat]
  exact ⟨fun hg => by rw [gammaOf, if_pos hg], fun hg => by rw [gammaOf, if_neg (by simp [hg])]⟩

/-! ### BLANK -/

@[simp] theorem ledBytes_length (s : State) (op : CurOp) (l : LaneId) (i : Nat) :
    (ledBytes s op l i).length = (s.cfg.lane l).cpp := by
  simp [ledBytes]

/-- The length of a stream does not depend on the command (41_symbol_packing.md R146). -/
theorem slotStream_length (s : State) (op : CurOp) (l : LaneId) :
    (slotStream s op l).length = s.cfg.activeCount l * ((s.cfg.lane l).cpp * 24) := by
  unfold slotStream Cfg.activeCount
  split
  · exact length_flatMap_range _ _ _ fun i => ledSlots_length s op l i
  · simp

theorem flatMap_range_replicate {α : Type} (xs : List α) (n m : Nat) :
    ((List.range n).flatMap fun _ => (List.replicate m xs).flatten) = (List.replicate (n * m) xs).flatten := by
  induction n with
  | zero => simp
  | succ n ih =>
    rw [List.range_succ, List.flatMap_append, ih, List.flatMap_singleton, Nat.succ_mul, List.replicate_add, List.flatten_append]

theorem byteSlots_zero : byteSlots 0 = (List.replicate 8 (symbolSlots false)).flatten := by decide

theorem ledSlots_blank (s : State) (l : LaneId) (i : Nat) :
    ledSlots s .blank l i = (List.replicate ((s.cfg.lane l).cpp * 8) (symbolSlots false)).flatten := by
  simp only [ledSlots_eq, colourByte, byteSlots_zero, flatMap_range_replicate]

/-- A BLANK stream in full, from the lane's LED count and colours alone (R126). -/
theorem slotStream_blank (s : State) (l : LaneId) :
    slotStream s .blank l =
      (List.replicate (s.cfg.activeCount l * (s.cfg.lane l).cpp * 8) (symbolSlots false)).flatten := by
  unfold slotStream Cfg.activeCount
  split
  · simp only [funext (ledSlots_blank s l), flatMap_range_replicate, Nat.mul_assoc]
  · simp

/-- The configuration with each lane's `BRIGHT` replaced. -/
def Cfg.withBright (c : Cfg) (b0 b1 : Byte) : Cfg :=
  { c with
    lane0 := { c.lane0 with bright := b0 }
    lane1 := { c.lane1 with bright := b1 } }

theorem Cfg.withBright_lane (c : Cfg) (b0 b1 : Byte) (l : LaneId) :
    ∃ b, (c.withBright b0 b1).lane l = { c.lane l with bright := b } := by
  cases l
  · exact ⟨b0, rfl⟩
  · exact ⟨b1, rfl⟩

theorem Cfg.withBright_activeCount (c : Cfg) (b0 b1 : Byte) (l : LaneId) :
    (c.withBright b0 b1).activeCount l = c.activeCount l := by
  cases l <;> rfl

/-- BLANK does not read `BRIGHT`, nor a RAM (R126). -/
theorem outWord_blank_withBright {s t : State} {b0 b1 : Byte} (h : t.cfg.withBright b0 b1 = s.cfg) (c : Nat) :
    outWord t .blank c = outWord s .blank c := by
  have hl : (t.cfg.withBright b0 b1).laneOf c = t.cfg.laneOf c := rfl
  have hn : (t.cfg.withBright b0 b1).nl = t.cfg.nl := rfl
  obtain ⟨b, hb⟩ := t.cfg.withBright_lane b0 b1 (t.cfg.laneOf c)
  simp only [outWord, slotStream_blank, ← h, hl, hn, hb, Cfg.withBright_activeCount, Lane.cpp]

/-- Settles O37: a BLANK stream repeats the symbol of bit 0 as often as its length asks. -/
theorem blankReadsNoColour : Obligations.BlankReadsNoColour := by
  refine ⟨fun s l i j => rfl, fun s l i => ⟨by simp, by simp only [slotStream_length]⟩,
    fun s t c h => outWord_blank_withBright h c, fun s l ha => ?_⟩
  rw [slotStream_blank, Cfg.activeCount, if_pos ha, symbolSlots]

end Sys2Proof.Machine
end

section
/-! PROOFS. Symbols, packing and sizes (41_symbol_packing.md): the slots of a lane's stream, the words they are packed into, the
sizes those take, and `CFG_OK`. -/

namespace Sys2Proof.Machine

/-! ### A lane's slot stream -/

/-- A lane is active exactly when it is a lane of the output, enabled, and has an LED (41_symbol_packing.md R150, R151). -/
theorem Cfg.active_iff (c : Cfg) (l : LaneId) :
    c.active l = true ↔ (c.mode = .dual ∨ l = .l0) ∧ (c.lane l).en = true ∧ 0 < (c.lane l).count.toNat := by
  have hlane : l.idx < c.nl ↔ c.mode = .dual ∨ l = .l0 := by
    cases hm : c.mode <;> cases l <;> simp [Cfg.nl, hm, LaneId.idx]
  simp only [Cfg.active, Bool.and_eq_true, decide_eq_true_eq, hlane, and_assoc]

theorem Cfg.activeCount_of_active {c : Cfg} {l : LaneId} (h : c.active l = true) :
    c.activeCount l = (c.lane l).count.toNat := if_pos h

theorem Cfg.activeCount_of_inactive {c : Cfg} {l : LaneId} (h : c.active l = false) : c.activeCount l = 0 :=
  if_neg (by simp [h])

/-- Settles O38: a lane that is not active counts as one without LEDs. -/
theorem streamLength : Obligations.StreamLength := by
  intro s op l
  refine ⟨fun h => by rw [Cfg.nl, h], fun h => by rw [Cfg.nl, h], s.cfg.active_iff l, fun h => if_pos h,
    fun h => if_neg (by simp [h]), fun h => ?_, fun h => ?_⟩ <;> rw [slotStream_length]
  · rw [Cfg.activeCount_of_active h, Nat.mul_assoc]
  · rw [Cfg.activeCount_of_inactive h, Nat.zero_mul]

/-- Element `r` of piece `i` in a concatenation of `n` pieces of length `m`. -/
theorem getD_flatMap_range_mul_add {α : Type} (f : Nat → List α) {n m i r : Nat} (d : α) (h : ∀ i, (f i).length = m)
    (hi : i < n) (hr : r < m) : ((List.range n).flatMap f).getD (m * i + r) d = (f i).getD r d := by
  have hlt : m * i + r < n * m :=
    calc m * i + r < m * (i + 1) := by rw [Nat.mul_succ]; omega
      _ ≤ m * n := Nat.mul_le_mul_left m hi
      _ = n * m := Nat.mul_comm m n
  rw [getD_flatMap_range f n m _ d h hlt, Nat.mul_add_div (by omega), Nat.div_eq_of_lt hr, Nat.add_zero, Nat.mul_add_mod,
    Nat.mod_eq_of_lt hr]

/-- Slot `r` of the symbol of data bit `7 - k` (R142, R143). -/
theorem byteSlots_getD_symbol (x : Byte) {k r : Nat} (hk : k < 8) (hr : r < 3) :
    (byteSlots x).getD (3 * k + r) false = (symbolSlots (x.getLsbD (7 - k))).getD r false :=
  getD_flatMap_range_mul_add _ _ (fun _ => rfl) hk hr

/-- Slot `r` of the byte in transmit slot `j` of an LED (R144). -/
theorem ledSlots_getD (s : State) (op : CurOp) (l : LaneId) (i : Nat) {j r : Nat} (hj : j < (s.cfg.lane l).cpp) (hr : r < 24) :
    (ledSlots s op l i).getD (24 * j + r) false = (byteSlots (colourByte s op l i j)).getD r false := by
  rw [ledSlots_eq]
  exact getD_flatMap_range_mul_add _ _ (fun _ => rfl) hj hr

/-- Slot `r` of LED `i` (R145). -/
theorem slotAt_slotStream_led {s : State} {l : LaneId} (ha : s.cfg.active l = true) (op : CurOp) {i r : Nat}
    (hi : i < (s.cfg.lane l).count.toNat) (hr : r < (s.cfg.lane l).cpp * 24) :
    slotAt (slotStream s op l) ((s.cfg.lane l).cpp * 24 * i + r) = (ledSlots s op l i).getD r false := by
  rw [slotAt, slotStream, if_pos ha]
  exact getD_flatMap_range_mul_add _ _ (ledSlots_length s op l) hi hr

/-- Slot `r` of the symbol of data bit `7 - k` of the byte in transmit slot `j` of LED `i`. -/
theorem slotAt_slotStream_symbol {s : State} {l : LaneId} (ha : s.cfg.active l = true) (op : CurOp) {i j k r : Nat}
    (hi : i < (s.cfg.lane l).count.toNat) (hj : j < (s.cfg.lane l).cpp) (hk : k < 8) (hr : r < 3) :
    slotAt (slotStream s op l) (24 * ((s.cfg.lane l).cpp * i + j) + 3 * k + r) =
      (symbolSlots ((colourByte s op l i j).getLsbD (7 - k))).getD r false := by
  have hplace : 24 * ((s.cfg.lane l).cpp * i + j) + 3 * k + r =
      (s.cfg.lane l).cpp * 24 * i + (24 * j + (3 * k + r)) := by ring
  rw [hplace, slotAt_slotStream_led ha op hi (by omega), ledSlots_getD s op l i hj (by omega), byteSlots_getD_symbol _ hk hr]

/-- Settles O39: the three slots of one symbol. -/
theorem streamSlotsFromColourBytes : Obligations.StreamSlotsFromColourBytes := by
  intro s op l i j k ha hi hj hk
  exact ⟨slotAt_slotStream_symbol ha op hi hj hk (r := 0) (by decide),
    slotAt_slotStream_symbol ha op hi hj hk (r := 1) (by decide),
    slotAt_slotStream_symbol ha op hi hj hk (r := 2) (by decide)⟩

/-! ### Words -/

theorem slotAt_of_length_le {str : List Bool} {n : Nat} (h : str.length ≤ n) : slotAt str n = false :=
  List.getD_eq_default _ _ h

/-- A lane word wholly beyond the stream is idle (R147). -/
theorem laneWord_of_length_le {str : List Bool} {w : Nat} (h : str.length ≤ 32 * w) : laneWord str w = 0#32 := by
  refine BitVec.eq_of_getLsbD_eq fun j _ => ?_
  rw [laneWord_getLsbD, slotAt_of_length_le (by omega), Bool.and_false, BitVec.getLsbD_zero]

/-- Settles O40, from the bits of a lane word. -/
theorem laneWordPacksFirstSlotHighest : Obligations.LaneWordPacksFirstSlotHighest := by
  refine fun str w => ⟨fun k hk => ?_, laneWord_of_length_le⟩
  have hbit : 31 - (31 - k) = k := by omega
  rw [laneWord_getLsbD, hbit, decide_eq_true (by omega), Bool.true_and, slotAt]

theorem slotStream_of_inactive {s : State} {l : LaneId} (h : s.cfg.active l = false) (op : CurOp) : slotStream s op l = [] :=
  if_neg (by simp [h])

/-- An output word is its lane's word, each slot complemented with `INV` (R149, R159). -/
theorem outWord_getLsbD {s : State} {l : LaneId} {c w k : Nat} (op : CurOp) (hl : s.cfg.laneOf c = l) (hw : c / s.cfg.nl = w)
    (hk : k < 32) :
    (outWord s op c).getLsbD k = xor (s.cfg.lane l).inv ((laneWord (slotStream s op l) w).getLsbD k) := by
  rw [outWord, hl, hw, invWord_getLsbD _ _ _ hk]

/-- Settles O41: in DUAL mode the lane is the parity of the output word. -/
theorem outputWordsInterleaveLanes : Obligations.OutputWordsInterleaveLanes := by
  intro s op w k hk
  refine ⟨fun hm => ?_, fun hm => ?_, fun l ha => ?_⟩
  · have hnl : s.cfg.nl = 2 := by rw [Cfg.nl, hm]
    have heven : s.cfg.laneOf (2 * w) = .l0 := if_pos (by rw [hnl]; omega)
    have hodd : s.cfg.laneOf (2 * w + 1) = .l1 := if_neg (by rw [hnl]; omega)
    exact ⟨outWord_getLsbD op heven (by rw [hnl]; omega) hk, outWord_getLsbD op hodd (by rw [hnl]; omega) hk⟩
  · have hnl : s.cfg.nl = 1 := by rw [Cfg.nl, hm]
    have hlane : s.cfg.laneOf w = .l0 := if_pos (by rw [hnl, Nat.mod_one])
    exact outWord_getLsbD op hlane (by rw [hnl, Nat.div_one]) hk
  · rw [slotStream_of_inactive ha, laneWord_of_length_le (Nat.zero_le _), BitVec.getLsbD_zero]

/-! ### Sizes -/

theorem Cfg.activeCount_le_nmax (c : Cfg) (l : LaneId) : c.activeCount l ≤ c.nmax := by
  cases l
  · exact le_max_left _ _
  · exact le_max_right _ _

/-- The words are sized for four colours, and no layout sends more (R153). -/
theorem slotStream_length_le (s : State) (op : CurOp) (l : LaneId) :
    (slotStream s op l).length ≤ 32 * s.cfg.dataWords := by
  rw [slotStream_length, Cfg.dataWords_eq]
  calc s.cfg.activeCount l * ((s.cfg.lane l).cpp * 24) ≤ s.cfg.nmax * (4 * 24) :=
        Nat.mul_le_mul (s.cfg.activeCount_le_nmax l) (Nat.mul_le_mul_right 24 (Lane.cpp_le _))
    _ = 32 * (3 * s.cfg.nmax) := by ring

/-- The reset words hold the reset period (42_symbol_timer.md R176). -/
theorem resetBits_le_resetWords (p : Params) (c : Cfg) : resetBits p c ≤ 32 * resetWords p c := by
  rw [Nat.mul_comm]
  exact le_ceilDiv_mul _ (by decide)

/-- Settles O42: the data words hold the stream and the reset words the reset period. -/
theorem laneHoldsStreamAndResetPeriod : Obligations.LaneHoldsStreamAndResetPeriod := by
  intro s op l hf
  have hstream := slotStream_length_le s op l
  have hreset := resetBits_le_resetWords s.params s.cfg
  refine ⟨s.cfg.dataWords_eq, hstream, ?_⟩
  rw [laneWords_of_legal hf]
  omega

/-- The configuration with one lane's `COUNT` replaced. -/
def Cfg.withCount (c : Cfg) (l : LaneId) (n : BitVec 16) : Cfg := c.setLane l { c.lane l with count := n }

section Count

variable (p : Params) (c : Cfg) (l : LaneId) (n : BitVec 16)

@[simp] theorem Cfg.withCount_nl : (c.withCount l n).nl = c.nl := by cases l <;> rfl

@[simp] theorem Cfg.withCount_freqOk : (c.withCount l n).freqOk = c.freqOk := by cases l <;> rfl

@[simp] theorem withCount_clkDiv : clkDiv p (c.withCount l n) = clkDiv p c := by cases l <;> rfl

@[simp] theorem withCount_resetWords : resetWords p (c.withCount l n) = resetWords p c := by cases l <;> rfl

theorem Cfg.withCount_lane_en (k : LaneId) : ((c.withCount l n).lane k).en = (c.lane k).en := by cases l <;> cases k <;> rfl

theorem Cfg.withCount_lane_count (k : LaneId) :
    ((c.withCount l n).lane k).count = if k = l then n else (c.lane k).count := by cases l <;> cases k <;> rfl

/-- A lane without LEDs counts 0 whether it is active or not. -/
theorem Cfg.activeCount_eq (k : LaneId) :
    c.activeCount k = if k.idx < c.nl ∧ (c.lane k).en = true then (c.lane k).count.toNat else 0 := by
  by_cases h0 : (c.lane k).count.toNat = 0
  · simp [Cfg.activeCount, h0]
  · simp [Cfg.activeCount, Cfg.active, Nat.pos_of_ne_zero h0]

variable {c l n}

theorem Cfg.activeCount_le_withCount (h : (c.lane l).count.toNat ≤ n.toNat) (k : LaneId) :
    c.activeCount k ≤ (c.withCount l n).activeCount k := by
  have hcount : (c.lane k).count.toNat ≤ ((c.withCount l n).lane k).count.toNat := by
    rw [Cfg.withCount_lane_count]
    split
    · next hk => exact hk ▸ h
    · exact le_refl _
  rw [Cfg.activeCount_eq, Cfg.activeCount_eq, Cfg.withCount_nl, Cfg.withCount_lane_en]
  split
  · exact hcount
  · exact le_refl _

theorem laneWords_le_withCount (h : (c.lane l).count.toNat ≤ n.toNat) : laneWords p c ≤ laneWords p (c.withCount l n) := by
  have hnmax : c.nmax ≤ (c.withCount l n).nmax :=
    max_le_max (Cfg.activeCount_le_withCount h .l0) (Cfg.activeCount_le_withCount h .l1)
  simp only [laneWords, Cfg.withCount_freqOk, withCount_resetWords, Cfg.dataWords_eq]
  split
  · omega
  · exact le_refl _

theorem bufWords_le_withCount (h : (c.lane l).count.toNat ≤ n.toNat) : bufWords p c ≤ bufWords p (c.withCount l n) := by
  rw [bufWords, bufWords, Cfg.withCount_nl]
  exact Nat.mul_le_mul_left _ (laneWords_le_withCount p h)

/-- The time grows with the words to shift out, at the same slot rate (42_symbol_timer.md R178). -/
theorem waitUs_le_withCount (h : (c.lane l).count.toNat ≤ n.toNat) : waitUs p c ≤ waitUs p (c.withCount l n) := by
  have hslots : laneWords p c * 32 * clkDiv p c * 1000000 ≤ laneWords p (c.withCount l n) * 32 * clkDiv p c * 1000000 := by
    gcongr
    exact laneWords_le_withCount p h
  simp only [waitUs, Cfg.withCount_freqOk, withCount_clkDiv]
  split
  · obtain h0 | hpos := Nat.eq_zero_or_pos p.oscHz
    · simp [ceilDiv, h0]
    · exact ceilDiv_mono hpos hslots
  · exact le_refl _

end Count

/-- Settles O43: `LANE_WORDS` grows with `COUNT`, and the three sizes with `LANE_WORDS`. -/
theorem sizesGrowWithLedCount : Obligations.SizesGrowWithLedCount := by
  intro p c l n h
  have hbuf := bufWords_le_withCount p h
  exact ⟨hbuf, Nat.mul_le_mul_left 4 hbuf, waitUs_le_withCount p h⟩

/-! ### `CFG_OK` -/

theorem accept_fsm_ne_idle (op : CurOp) (s : State) : (accept op s).fsm ≠ .idle := by
  rw [accept_fsm]
  split <;> simp

/-- An ENCODE or BLANK issued in `IDLE` leaves it exactly when the configuration is legal (43_commands.md R192, R193). -/
theorem startCommand_leaves_idle_iff {s : State} (hi : s.fsm = .idle) (op : CurOp) :
    (startCommand op s).fsm ≠ .idle ↔ cfgOk s.params s.cfg = true := by
  refine ⟨fun hne => ?_, fun hc => ?_⟩
  · obtain ⟨e, -, he⟩ | ⟨-, -, hc⟩ := startCommand_cases op s
    · exact absurd hi (by rwa [he, raiseErr_fsm] at hne)
    · exact hc
  · rw [startCommand_accepts hi hc]
    exact accept_fsm_ne_idle op s

/-- The same of a command whose meaning is to start an operation. -/
theorem exec_leaves_idle_iff {s : State} {i : Instr} {op : CurOp} (hi : s.fsm = .idle)
    (hx : exec i s = .next (startCommand op s)) :
    (∃ t, exec i s = .next t ∧ t.fsm ≠ .idle) ↔ cfgOk s.params s.cfg = true := by
  rw [← startCommand_leaves_idle_iff hi op, hx]
  exact ⟨fun ⟨t, ht, hne⟩ => Host.Outcome.next.inj ht ▸ hne, fun hne => ⟨_, rfl, hne⟩⟩

/-- Settles O14: each side is `CFG_OK` itself. -/
theorem cfgOkShowsAcceptance : Obligations.CfgOkShowsAcceptance := by
  intro s hi
  obtain ⟨-, -, -, hbit⟩ := statusWord_stateBits s
  have hread : (hostRead 0x004 4 s).1.getLsbD 3 = s.cfgOkFlag :=
    (congrArg (fun r => r.1.getLsbD 3) (hostRead_offset .status s)).trans hbit
  rw [hread]
  exact ⟨cfgOkFlag_iff s, (exec_leaves_idle_iff (op := .encode) hi rfl).symm,
    (exec_leaves_idle_iff (op := .blank) hi rfl).symm⟩

end Sys2Proof.Machine
end

section
/-! PROOFS. The symbol timer (42_symbol_timer.md): the divider, the reset padding and the wait time, what moves the wait timer,
and a symbol on the line. -/

namespace Sys2Proof.Machine

/-! ### With an illegal frequency -/

section Rates

variable {p : Params} {c : Cfg}

theorem clkDiv_of_illegal (h : ¬FreqLegal c) : clkDiv p c = 0 := if_neg fun hf => h ((freqOk_iff_legal c).1 hf)

theorem resetBits_of_illegal (h : ¬FreqLegal c) : resetBits p c = 0 := if_neg fun hf => h ((freqOk_iff_legal c).1 hf)

theorem waitUs_of_illegal (h : ¬FreqLegal c) : waitUs p c = 0 := if_neg fun hf => h ((freqOk_iff_legal c).1 hf)

/-! ### The reset padding -/

/-- `RESET_WORDS` is the least number of words with `RESET_BITS` slots (R176). -/
theorem resetWords_le_iff (n : Nat) : resetWords p c ≤ n ↔ resetBits p c ≤ 32 * n := by
  rw [resetWords, ceilDiv_le_iff (by decide), wordBits, Nat.mul_comm]

/-- `RESET_BITS` is the least number of slots that last `RESET_US` microseconds at the slot rate sent (R175). -/
theorem resetBits_le_iff (hp : p.legal = true) (hf : FreqLegal c) (n : Nat) :
    resetBits p c ≤ n ↔ c.resetUs.toNat * p.oscHz ≤ n * (clkDiv p c * 1000000) := by
  have hok := (freqOk_iff_legal c).2 hf
  have hd := clkDiv_pos hp hok
  rw [resetBits, if_pos hok, ceilDiv_le_iff (by omega)]

/-- The reset slots last at least `RESET_US` microseconds (R177). -/
theorem resetUs_le_resetBits_time (hp : p.legal = true) (hf : FreqLegal c) :
    c.resetUs.toNat * p.oscHz ≤ resetBits p c * clkDiv p c * 1000000 := by
  rw [Nat.mul_assoc]
  exact (resetBits_le_iff hp hf _).1 le_rfl

theorem resetBits_slots_le_padding (p : Params) (c : Cfg) :
    resetBits p c * clkDiv p c ≤ 32 * resetWords p c * clkDiv p c :=
  Nat.mul_le_mul_right _ (resetBits_le_resetWords p c)

/-- The padding words last at least `RESET_US` microseconds (R177). -/
theorem resetUs_le_padding_time (hp : p.legal = true) (hf : FreqLegal c) :
    c.resetUs.toNat * p.oscHz ≤ 32 * resetWords p c * clkDiv p c * 1000000 :=
  (resetUs_le_resetBits_time hp hf).trans (Nat.mul_le_mul_right _ (resetBits_slots_le_padding p c))

/-- The reset slots are no fewer than at the nominal slot rate `3 · FREQ`, which is at most the rate sent (R173, R177). -/
theorem nominal_le_resetBits (hp : p.legal = true) (hf : FreqLegal c) :
    c.resetUs.toNat * 3 * c.freq.toNat ≤ resetBits p c * 1000000 := by
  obtain ⟨-, hpos, -, hrate, -⟩ := clkDiv_spec hp ((freqOk_iff_legal c).2 hf)
  refine Nat.le_of_mul_le_mul_left ?_ hpos
  calc clkDiv p c * (c.resetUs.toNat * 3 * c.freq.toNat)
      = c.resetUs.toNat * (clkDiv p c * (3 * c.freq.toNat)) := by ring
    _ ≤ c.resetUs.toNat * p.oscHz := Nat.mul_le_mul_left _ hrate
    _ ≤ resetBits p c * clkDiv p c * 1000000 := resetUs_le_resetBits_time hp hf
    _ = clkDiv p c * (resetBits p c * 1000000) := by ring

/-- The dividend of `RESET_BITS` fits 49 bits (R175). -/
theorem resetUs_mul_oscHz_lt (c : Cfg) (hp : p.legal = true) : c.resetUs.toNat * p.oscHz < 2 ^ 49 := by
  have hosc : p.oscHz < 4096 * 1200000 := by
    obtain ⟨⟨-, hquot⟩, -⟩ := (Params.legal_iff p).1 hp
    omega
  calc c.resetUs.toNat * p.oscHz ≤ 2 ^ 16 * (4096 * 1200000) := Nat.mul_le_mul c.resetUs.isLt.le hosc.le
    _ < 2 ^ 49 := by norm_num

/-- `RESET_BITS` fits 19 bits (R175). -/
theorem resetBits_lt (c : Cfg) (hp : p.legal = true) : resetBits p c < 2 ^ 19 := by
  have hbits := resetBits_le (c := c) hp
  have hus := c.resetUs.isLt
  omega

/-! ### The wait time -/

/-- `WAIT_US` is the least number of microseconds in which the lane's words are shifted out (R178). -/
theorem waitUs_le_iff (hp : p.legal = true) (hf : FreqLegal c) (n : Nat) :
    waitUs p c ≤ n ↔ laneWords p c * 32 * clkDiv p c * 1000000 ≤ n * p.oscHz := by
  obtain ⟨⟨hosc, -⟩, -⟩ := (Params.legal_iff p).1 hp
  rw [waitUs, if_pos ((freqOk_iff_legal c).2 hf), ceilDiv_le_iff (by omega)]

/-- The lane's words end with the padding, so the wait is no shorter than the reset period (R179). -/
theorem resetUs_le_waitUs (hp : p.legal = true) (hf : FreqLegal c) : c.resetUs.toNat ≤ waitUs p c := by
  obtain ⟨⟨hosc, -⟩, -⟩ := (Params.legal_iff p).1 hp
  have hwords : 32 * resetWords p c ≤ laneWords p c * 32 := by
    rw [laneWords_of_legal hf]
    omega
  refine Nat.le_of_mul_le_mul_right ?_ (show 0 < p.oscHz by omega)
  calc c.resetUs.toNat * p.oscHz ≤ 32 * resetWords p c * clkDiv p c * 1000000 := resetUs_le_padding_time hp hf
    _ ≤ laneWords p c * 32 * clkDiv p c * 1000000 := by gcongr
    _ ≤ waitUs p c * p.oscHz := (waitUs_le_iff hp hf _).1 le_rfl

end Rates

/-! ### The divider, the padding and the wait time, settled -/

/-- Settles O44: the rate sent is exactly `FREQ` when the divider's quotient leaves no remainder. -/
theorem dividerRangeAndRate : Obligations.DividerRangeAndRate := by
  intro p c hp
  refine ⟨clkDiv_of_illegal, fun hf => ?_⟩
  obtain ⟨e, hpos, hle, hrate, -⟩ := clkDiv_spec hp ((freqOk_iff_legal c).2 hf)
  rw [show 3 * clkDiv p c * c.freq.toNat = clkDiv p c * (3 * c.freq.toNat) by ring]
  refine ⟨e, hpos, hle, hrate, ?_⟩
  rw [e]
  exact (Nat.dvd_iff_div_mul_eq _ _).symm

/-- Settles O45: each bound from the least count that reaches it. -/
theorem paddingMeetsBothBounds : Obligations.PaddingMeetsBothBounds := by
  intro p c hp
  refine ⟨resetBits_of_illegal, resetWords_le_iff, fun hf => ?_, fun hf hus => ?_⟩
  · exact ⟨resetUs_mul_oscHz_lt c hp, resetBits_lt c hp, resetBits_le_iff hp hf⟩
  · have hpadding := resetUs_le_padding_time hp hf
    exact ⟨resetWords_pos hp ((freqOk_iff_legal c).2 hf) hus, resetUs_le_resetBits_time hp hf, resetBits_slots_le_padding p c,
      (Nat.mul_le_mul_right _ hus).trans hpadding, nominal_le_resetBits hp hf⟩

/-- Settles O46: the least number of microseconds for the lane's words, whose padding alone lasts `RESET_US`. -/
theorem waitCoversTheTransfer : Obligations.WaitCoversTheTransfer :=
  fun _ _ hp => ⟨fun hf => ⟨waitUs_le_iff hp hf, resetUs_le_waitUs hp hf⟩, waitUs_of_illegal⟩

/-! ### The wait timer -/

section WaitTimer

variable {s t : State}

/-- Of the commands only ARMED, in `IDLE`, touches the wait timer (43_commands.md R194). -/
theorem exec_waitRemain_cases {i : Instr} (h : exec i s = .next t) :
    t.waitRemain = s.waitRemain ∨ (i = .armed ∧ s.fsm = .idle ∧ t.waitRemain = s.armWaitUs) := by
  obtain rfl | ⟨e, -, rfl⟩ | ⟨op, rfl, -⟩ | ⟨ha, hi, rfl⟩ := exec_cases h
  · exact .inl rfl
  · exact .inl rfl
  · exact .inl (accept_waitRemain op s)
  · exact .inr ⟨ha, hi, rfl⟩

/-- The host's step touches the wait timer only by an ARMED written to `CMD`. -/
theorem hostStep_waitRemain_cases (h : hostStep s = .next t) :
    t.waitRemain = s.waitRemain ∨
    ∃ v, s.host.delay = 0 ∧ s.host.program[s.host.pc]? = some (.wr 8 4 v) ∧ decodeWord v = .armed ∧ s.fsm = .idle ∧
      t.waitRemain = s.armWaitUs := by
  obtain ⟨v, hd, hp, hx⟩ | ⟨v, -, -, e⟩ | ⟨c, -, e⟩ | ⟨l, k, v, -, -, -, -, e⟩ | ⟨l, i, v, -, -, -, -, e⟩ | e | e | ⟨-, e⟩ :=
    hostStep_full h
  · exact (exec_waitRemain_cases hx).imp_right fun ⟨ha, hi, hw⟩ => ⟨v, hd, hp, ha, hi, hw⟩
  all_goals refine .inl ((congrArg State.waitRemain e).trans ?_)
  · exact writeStatus_waitRemain v _
  · rfl
  · exact setGammaWord_waitRemain l k v _
  · exact setPix_waitRemain l i v _
  · rfl
  · rfl
  · rfl

/-- The engine reads the wait timer and never writes it (43_commands.md R196). -/
@[simp] theorem engineStep_waitRemain (a : MemAnswer) (s : State) : (engineStep a s).waitRemain = s.waitRemain := by
  obtain ⟨e, -⟩ | ⟨e, -⟩ | ⟨e, -⟩ | ⟨e, -⟩ | ⟨e, -⟩ | ⟨e, -⟩ := engineStep_cases a s <;> simp [e]

/-- The wait timer after a step that is no tick: as before, cleared by reset, or loaded by ARMED (R183). -/
theorem step_waitRemain_cases (h : step s = .next t) (htick : s.nextMove ≠ .tick) :
    t.waitRemain = s.waitRemain ∨ (s.nextMove = .reset ∧ t.waitRemain = 0) ∨
    ∃ v, hostWrites s 0x008 v ∧ decodeWord v = .armed ∧ s.fsm = .idle ∧ t.waitRemain = s.armWaitUs := by
  obtain ⟨hm, hh⟩ | ⟨a, -, rfl⟩ | ⟨hm, -⟩ | ⟨hm, rfl⟩ | ⟨k, -, rfl⟩ | ⟨a, -, rfl⟩ | ⟨a, v, -, rfl⟩ := step_cases h
  · have hc := hostStep_waitRemain_cases hh
    rw [popMove_waitRemain, popMove_host, popMove_fsm, popMove_armWaitUs] at hc
    exact hc.imp_right fun ⟨v, hd, hp, hx⟩ => .inr ⟨v, ⟨hm, hd, hp⟩, hx⟩
  · exact .inl (by simp)
  · exact absurd hm htick
  · exact .inr (.inl ⟨hm, rfl⟩)
  · exact .inl (by rw [observeWord_frame, popMove_waitRemain])
  · exact .inl (by rw [observeByte_frame, popMove_waitRemain])
  · exact .inl (by simp)

/-- A step on a tick is one pulse of `US_TICK`. -/
theorem step_of_tick (hm : s.nextMove = .tick) : step s = .next (usTick s.popMove) := by
  rw [step_eq, hm, doMove]

end WaitTimer

/-- Settles O22: the tick's own step, and the timer after every other. -/
theorem waitTimerCountsDown : Obligations.WaitTimerCountsDown := by
  refine ⟨fun s hm => ⟨(usTick s).waitRemain, usTick_waitRemain_toNat s, ?_⟩, fun s t h hne htick => ?_⟩
  · rw [step_of_tick hm, usTick, popMove_waitRemain, popMove_host, usTick_waitRemain]
  · exact (step_waitRemain_cases h htick).resolve_left hne

/-! ### A symbol on the line -/

/-- With an even number of inverting stages the line carries the slots themselves (70_reset_and_hazards.md R253). -/
theorem lineLevels_map_xor {inv polarity board : Bool} (h : xor board (xor polarity inv) = false) (slots : List Bool) :
    lineLevels polarity board (slots.map (xor inv)) = slots := by
  have hstage (x : Bool) : xor board (xor polarity (xor inv x)) = x := by
    rw [← Bool.xor_assoc polarity, ← Bool.xor_assoc board, h, Bool.false_xor]
  simp [lineLevels, Function.comp_def, hstage]

theorem symbolHighSlots_eq (b : Bool) : symbolHighSlots b = if b then 2 else 1 := by cases b <;> rfl

/-- Settles O58: the stages cancel on every slot, so on a symbol's three. -/
theorem symbolLevelsOnTheLine : Obligations.SymbolLevelsOnTheLine :=
  fun b _ _ _ h => ⟨lineLevels_map_xor h (symbolSlots b), symbolHighSlots_eq b⟩

end Sys2Proof.Machine
end

section
/-! PROOFS. The commands (43_commands.md sections 1 and 2): how a host write issues one, what each does and what none changes. -/

namespace Sys2Proof.Machine

/-! ### The command of a word -/

/-- A word with a well-formed command's opcode in its low four bits decodes to that command (30_encoding.md R90). -/
theorem decodeWord_of_low4_eq {w : Word} {i : Instr} (hi : i.wellFormed = true) (h : w &&& 0x0000000F#32 = encodeWord i) :
    decodeWord w = i := by
  rw [decodeWord_of_low4 h, decodeOp_op hi]

theorem decodeOp_reserved : ∀ op : BitVec 4, 4 ≤ op.toNat → decodeOp op = .reservedLow op ∨ decodeOp op = .reservedHigh op := by
  decide

/-- A word with OP 4 to 15 decodes to a reserved row (30_encoding.md R91, R94). -/
theorem decodeWord_reserved {w : Word} (h : 4 ≤ (w &&& 0x0000000F#32).toNat) :
    ∃ op, decodeWord w = .reservedLow op ∨ decodeWord w = .reservedHigh op := by
  rw [and_low4, BitVec.toNat_append] at h
  exact ⟨_, decodeOp_reserved _ (by simpa using h)⟩

theorem decodeTableWord_eq (nbits w : Nat) :
    decodeTableWord nbits w = some (decodeWord (BitVec.ofNat 32 (w % 2 ^ nbits))) := by
  have h := decode_bytesOfWord (BitVec.ofNat 32 (w % 2 ^ nbits)) []
  rw [List.append_nil] at h
  rw [decodeTableWord, h]

/-! ### Issuing a command -/

/-- Settles O4: the offset of `CMD` names it, and no lock or flag comes before the command. -/
theorem cmdWriteIssuesCommand : Obligations.CmdWriteIssuesCommand :=
  fun w s => hostWrite_offset .cmd w s

/-- Settles O5: the statement is a write of `CMD`, made with the host past it. -/
theorem stepRunsDecodedCommand : Obligations.StepRunsDecodedCommand := by
  rintro s w i rest ⟨hm, hd, hp⟩ hdec
  have hw := decode_bytesOfWord w []
  rw [List.append_nil, hdec] at hw
  obtain ⟨rfl, -⟩ := Prod.mk.inj (Except.ok.inj hw)
  refine ⟨?_, fun ms h => popMove_cons h⟩
  rw [step_of_hostStmt hm hd hp, runStmt, cmdWriteIssuesCommand, setHostPc, popMove_host]

/-- The statement that `withFetchWord` places is the one the host is at. -/
theorem withFetchWord_hostWrites (s : State) (nbits w : Nat) :
    hostWrites (s.withFetchWord nbits w) 0x008 (BitVec.ofNat 32 (w % 2 ^ nbits)) := by
  refine ⟨rfl, rfl, ?_⟩
  simp only [State.withFetchWord, placeCommand]
  rw [List.getElem?_append_right le_rfl, Nat.sub_self, List.getElem?_cons_zero]

/-- Settles O6: the placed statement is the host's next, and the placed move is the next one. -/
theorem placedCommandRunsNext : Obligations.PlacedCommandRunsNext := by
  intro s nbits w i h
  obtain rfl := Option.some.inj ((decodeTableWord_eq nbits w).symm.trans h)
  have hstep := stepRunsDecodedCommand _ _ _ _ (withFetchWord_hostWrites s nbits w) (decode_bytesOfWord _ [])
  exact hstep.1

/-! ### NOP, ARMED and the reserved opcodes -/

/-- Settles O7: opcode 0 is NOP's, and NOP is `skip`. -/
theorem nopDoesNothing : Obligations.NopDoesNothing :=
  ⟨fun _ h => decodeWord_of_low4_eq rfl h, fun _ => rfl⟩

/-- Settles O10: one check, of `FSM`. -/
theorem armedMeaning : Obligations.ArmedMeaning :=
  ⟨fun _ h => decodeWord_of_low4_eq rfl h, fun _ =>
    ⟨fun hw => congrArg Host.Outcome.next (if_pos hw), fun hi => congrArg Host.Outcome.next (if_neg (not_not_intro hi))⟩⟩

/-- Settles O11: opcodes 4 to 15 lead to the two reserved rows, whose one meaning is `BAD_CMD`. -/
theorem reservedOpcodesRaiseBadCmd : Obligations.ReservedOpcodesRaiseBadCmd := by
  refine ⟨fun _ _ => rfl, fun _ _ => rfl, fun w s h => ?_⟩
  rw [cmdWriteIssuesCommand]
  obtain ⟨op, e | e⟩ := decodeWord_reserved h <;> rw [e] <;> rfl

/-! ### ENCODE and BLANK -/

section Start

variable {s : State}

theorem startCommand_of_working (op : CurOp) (hw : s.fsm ≠ .idle) : startCommand op s = raiseErr .cmdBusy s := if_pos hw

theorem startCommand_of_illegalFreq (op : CurOp) (hi : s.fsm = .idle) (hf : ¬FreqLegal s.cfg) :
    startCommand op s = raiseErr .illegalFreq s := by
  rw [← freqOk_iff_legal, Bool.not_eq_true] at hf
  simp [startCommand, hi, hf]

theorem startCommand_of_noCapacity (op : CurOp) (hi : s.fsm = .idle) (hf : FreqLegal s.cfg)
    (hc : ¬CapacityHolds s.params s.cfg) : startCommand op s = raiseErr .outOfMemory s := by
  rw [← freqOk_iff_legal] at hf
  rw [← capOk_iff_holds, Bool.not_eq_true] at hc
  simp [startCommand, hi, hf, hc]

theorem startCommand_of_legal (op : CurOp) (hi : s.fsm = .idle) (hf : FreqLegal s.cfg) (hc : CapacityHolds s.params s.cfg) :
    startCommand op s = accept op s := by
  refine startCommand_accepts hi ?_
  rw [cfgOk, Bool.and_eq_true]
  exact ⟨(freqOk_iff_legal _).2 hf, (capOk_iff_holds _ _).2 hc⟩

theorem accept_of_waiting (op : CurOp) (h : 0 < s.waitRemain.toNat) :
    accept op s = { s with done := false, curOp := op, fsm := .pending } :=
  if_neg fun e => by simp [e] at h

theorem accept_of_waited (op : CurOp) (h : s.waitRemain.toNat = 0) :
    accept op s = { s with done := false, curOp := op, fsm := .busy, cursor := 0 } :=
  if_pos (BitVec.eq_of_toNat_eq h)

/-- The five outcomes of ENCODE and BLANK, the checks in the order of 43_commands.md R192. -/
theorem startCommand_meaning (op : CurOp) (s : State) :
    (s.fsm ≠ .idle → startCommand op s = { s with err := .cmdBusy }) ∧
    (s.fsm = .idle → ¬FreqLegal s.cfg → startCommand op s = { s with err := .illegalFreq }) ∧
    (s.fsm = .idle → FreqLegal s.cfg → ¬CapacityHolds s.params s.cfg → startCommand op s = { s with err := .outOfMemory }) ∧
    (s.fsm = .idle → FreqLegal s.cfg → CapacityHolds s.params s.cfg → 0 < s.waitRemain.toNat →
      startCommand op s = { s with done := false, curOp := op, fsm := .pending }) ∧
    (s.fsm = .idle → FreqLegal s.cfg → CapacityHolds s.params s.cfg → s.waitRemain.toNat = 0 →
      startCommand op s = { s with done := false, curOp := op, fsm := .busy, cursor := 0 }) :=
  ⟨startCommand_of_working op, startCommand_of_illegalFreq op, startCommand_of_noCapacity op,
    fun hi hf hc hw => (startCommand_of_legal op hi hf hc).trans (accept_of_waiting op hw),
    fun hi hf hc hw => (startCommand_of_legal op hi hf hc).trans (accept_of_waited op hw)⟩

end Start

theorem exec_encode (s : State) : exec .encode s = .next (startCommand .encode s) := rfl

theorem exec_blank (s : State) : exec .blank s = .next (startCommand .blank s) := rfl

/-- Settles O8: opcode 1 is ENCODE's, whose meaning is to start the operation ENCODE. -/
theorem encodeMeaning : Obligations.EncodeMeaning := by
  refine ⟨fun _ h => decodeWord_of_low4_eq rfl h, fun s => ?_⟩
  simp only [exec_encode, Host.Outcome.next.injEq]
  exact startCommand_meaning .encode s

/-- Settles O9: opcode 2 is BLANK's, whose meaning is to start the operation BLANK. -/
theorem blankMeaning : Obligations.BlankMeaning := by
  refine ⟨fun _ h => decodeWord_of_low4_eq rfl h, fun s => ?_⟩
  simp only [exec_blank, Host.Outcome.next.injEq]
  exact startCommand_meaning .blank s

/-! ### What no command changes -/

/-- The fields a command may change (43_commands.md R191 to R195). -/
theorem exec_frame {i : Instr} {s t : State} (h : exec i s = .next t) :
    t = { s with
      err := t.err, waitRemain := t.waitRemain, done := t.done, curOp := t.curOp, fsm := t.fsm, cursor := t.cursor } := by
  obtain rfl | ⟨e, -, rfl⟩ | ⟨op, rfl, -⟩ | ⟨-, -, rfl⟩ := exec_cases h
  · rfl
  · rfl
  · unfold accept
    split <;> rfl
  · rfl

/-- Only an accepted ENCODE or BLANK touches the operation. -/
theorem exec_keeps_operation {i : Instr} {s t : State} (h : exec i s = .next t) (he : i ≠ .encode) (hb : i ≠ .blank) :
    t.done = s.done ∧ t.curOp = s.curOp ∧ t.fsm = s.fsm ∧ t.cursor = s.cursor := by
  obtain rfl | ⟨e, -, rfl⟩ | ⟨-, -, -, -, hi⟩ | ⟨-, -, rfl⟩ := exec_cases h
  · exact ⟨rfl, rfl, rfl, rfl⟩
  · exact ⟨rfl, rfl, rfl, rfl⟩
  · exact absurd hi (not_or_intro he hb)
  · exact ⟨rfl, rfl, rfl, rfl⟩

/-- Settles O15: memory and RAMs are among the fields that no command changes. -/
theorem commandFrame : Obligations.CommandFrame := by
  intro i s t h
  have hframe := exec_frame h
  refine ⟨hframe, fun a => ?_, fun l j => ?_, fun l c => ?_, fun ha => ?_, exec_keeps_operation h⟩
  · rw [hframe]
  · rw [hframe]
    rfl
  · rw [hframe]
    rfl
  · exact (exec_waitRemain_cases h).resolve_right fun ⟨e, _⟩ => ha e

end Sys2Proof.Machine
end

section
/-! PROOFS. The host's accesses to the window (43_commands.md section 5): writes of `STATUS`, of the configuration and of the RAMs,
the lock, and unsupported accesses. -/

namespace Sys2Proof.Machine

/-! ### `STATUS` -/

theorem writeStatus_frame (v : Word) (s : State) :
    writeStatus v s = { s with
      err := (writeStatus v s).err, done := (writeStatus v s).done, werr := (writeStatus v s).werr,
      buserr := (writeStatus v s).buserr } := by
  unfold writeStatus
  dsimp only
  split <;> rfl

/-- Settles O27: each flag is kept or cleared by its own bit. -/
theorem statusWriteClearsFlags : Obligations.StatusWriteClearsFlags := by
  refine fun s v => ⟨writeStatus v s, hostWrite_offset .status v s, writeStatus_frame v s, ?_, ?_, ?_, ?_, ?_, ?_, ?_, ?_⟩ <;>
    intro h <;> simp only [writeStatus_done, writeStatus_werr, writeStatus_buserr, writeStatus_err, h, Bool.not_true, Bool.not_false,
      Bool.and_false, Bool.and_true, if_true, Bool.false_eq_true, if_false]

/-! ### Accesses to the RAMs -/

section Places

variable {s : State}

theorem placeOf_aligned (s : State) {off : Nat} (h : off % 4 = 0) : placeOf s off 4 = placeAt s.params.pixCap off :=
  if_pos ⟨rfl, h⟩

theorem placeOf_pixOffset (hp : s.params.legal = true) (l : LaneId) {i : Nat} (hi : i < s.params.pixCap) :
    placeOf s (0x10000 + 0x10000 * l.idx + 4 * i) 4 = .pix l i := by
  rw [placeOf_aligned s (by omega), placeAt_pixBase hp l hi]

theorem placeOf_gammaOffset (s : State) (l : LaneId) {k : Nat} (hk : k < 64) :
    placeOf s (0x400 + 0x100 * l.idx + 4 * k) 4 = .gamma l k := by
  rw [placeOf_aligned s (by omega), placeAt_gammaBase _ l hk]

theorem hostRead_pixOffset (hp : s.params.legal = true) (l : LaneId) {i : Nat} (hi : i < s.params.pixCap) :
    hostRead (0x10000 + 0x10000 * l.idx + 4 * i) 4 s = (s.pix l i, s) := by
  rw [hostRead, placeOf_pixOffset hp l hi]

theorem hostWrite_pixOffset (hp : s.params.legal = true) (l : LaneId) {i : Nat} (hi : i < s.params.pixCap) (v : Word) :
    hostWrite (0x10000 + 0x10000 * l.idx + 4 * i) 4 v s = .next (lockedWrite (fun t => t.setPix l i v) s) := by
  rw [hostWrite, placeOf_pixOffset hp l hi]

theorem hostRead_gammaOffset (s : State) (l : LaneId) {k : Nat} (hk : k < 64) :
    hostRead (0x400 + 0x100 * l.idx + 4 * k) 4 s = (s.gammaWord l k, s) := by
  rw [hostRead, placeOf_gammaOffset s l hk]

theorem hostWrite_gammaOffset (s : State) (l : LaneId) {k : Nat} (hk : k < 64) (v : Word) :
    hostWrite (0x400 + 0x100 * l.idx + 4 * k) 4 v s = .next (lockedWrite (fun t => t.setGammaWord l k v) s) := by
  rw [hostWrite, placeOf_gammaOffset s l hk]

theorem lockedWrite_of_idle (f : State → State) (hi : s.fsm = .idle) : lockedWrite f s = f s := if_pos hi

theorem lockedWrite_of_working (f : State → State) (hw : s.fsm ≠ .idle) : lockedWrite f s = { s with werr := true } := if_neg hw

/-- Byte `b` of a gamma word is its entry `4k + b` (10_state.md R52). -/
theorem wordByte_gammaWord (s : State) (l : LaneId) (k : Nat) {b : Nat} (hb : b < 4) :
    wordByte (s.gammaWord l k) b = s.gamma l (4 * k + b) := by
  unfold State.gammaWord
  interval_cases b
  · exact wordByte_wordOfBytes_0 ..
  · exact wordByte_wordOfBytes_1 ..
  · exact wordByte_wordOfBytes_2 ..
  · exact wordByte_wordOfBytes_3 ..

theorem setPix_frame (s : State) (l : LaneId) (i : Nat) (v : Word) :
    s.setPix l i v = { s with pix0 := (s.setPix l i v).pix0, pix1 := (s.setPix l i v).pix1 } := by
  cases l <;> rfl

theorem setGammaWord_frame (s : State) (l : LaneId) (k : Nat) (v : Word) :
    s.setGammaWord l k v =
      { s with gamma0 := (s.setGammaWord l k v).gamma0, gamma1 := (s.setGammaWord l k v).gamma1 } := by
  cases l <;> rfl

end Places

/-- Settles O31: the offsets name the RAM words, and a write of one goes through the lock. -/
theorem ramAccess : Obligations.RamAccess := by
  intro s l hp
  refine ⟨fun i hi => hostRead_pixOffset hp l hi, fun i v hi hidle => ?_, fun i v hi hw => ?_, fun k hk => ?_,
    fun k v hk hidle => ?_, fun k v hk hw => ?_⟩
  · refine ⟨s.setPix l i v, ?_, setPix_frame s l i v, ?_, fun l' i' hne => ?_⟩
    · rw [hostWrite_pixOffset hp l hi, lockedWrite_of_idle _ hidle]
    · rw [pix_setPix, if_pos ⟨rfl, rfl⟩]
    · rw [pix_setPix, if_neg (not_and_or.2 hne)]
  · rw [hostWrite_pixOffset hp l hi, lockedWrite_of_working _ hw]
  · exact ⟨_, hostRead_gammaOffset s l hk, fun b hb => wordByte_gammaWord s l k hb⟩
  · refine ⟨s.setGammaWord l k v, ?_, setGammaWord_frame s l k v, fun b hb => ?_, fun l' c hne => ?_⟩
    · rw [hostWrite_gammaOffset s l hk, lockedWrite_of_idle _ hidle]
    · rw [gamma_setGammaWord, if_pos ⟨rfl, by omega⟩, show (4 * k + b) % 4 = b by omega, wordByte]
    · rw [gamma_setGammaWord, if_neg (not_and_or.2 hne)]
  · rw [hostWrite_gammaOffset s l hk, lockedWrite_of_working _ hw]

/-! ### Supported and unsupported accesses -/

theorem placeOf_unsupported {s : State} {off width : Nat} (hp : s.params.legal = true)
    (h : width ≠ 4 ∨ off % 4 ≠ 0 ∨ ¬windowMapped s.params off) : placeOf s off width = .unmapped := by
  by_contra hu
  obtain ⟨hw, h4, hplace⟩ := placeOf_eq rfl hu
  have hm : windowMapped s.params off := (windowMapped_iff hp h4).2 (hplace ▸ hu)
  obtain h | h | h := h
  · exact h hw
  · exact h h4
  · exact h hm

/-- Settles O29: such an access reaches nothing. -/
theorem unsupportedAccessSetsBuserr : Obligations.UnsupportedAccessSetsBuserr := by
  intro s off width v hp h
  have hu := placeOf_unsupported hp h
  constructor
  · rw [hostRead, hu, setBuserr]
  · rw [hostWrite, hu, setBuserr]

/-- Settles O30: a read leaves the state unless its offset is unmapped. -/
theorem supportedReadsChangeNothing : Obligations.SupportedReadsChangeNothing := by
  refine ⟨fun s off hp h4 hm => ?_, fun s => congrArg Prod.fst (hostRead_offset .cmd s)⟩
  obtain e | ⟨hu, -, -⟩ := hostRead_cases off 4 s
  · exact e
  · rw [placeOf_aligned s h4] at hu
    exact absurd hu ((windowMapped_iff hp h4).1 hm)

/-! ### Writes of the configuration registers -/

/-- The configuration registers, in the order of their offsets. -/
def configRegs : List Reg :=
  [.ctrl, .freq, .resetUs, .outBase, .outCap, .count .l0, .layout .l0, .ctl .l0, .count .l1, .layout .l1, .ctl .l1]

theorem configRegs_offsets : configRegs.map Reg.offset = configOffsets := rfl

theorem mem_configRegs (r : Reg) : r ∈ configRegs ↔ r.locked = true := by
  cases r
  case count l => cases l <;> decide
  case layout l => cases l <;> decide
  case ctl l => cases l <;> decide
  all_goals decide

theorem exists_locked_of_mem_configOffsets {off : Nat} (h : off ∈ configOffsets) :
    ∃ r : Reg, r.locked = true ∧ r.offset = off := by
  rw [← configRegs_offsets, List.mem_map] at h
  obtain ⟨r, hr, e⟩ := h
  exact ⟨r, (mem_configRegs r).1 hr, e⟩

theorem writeReg_locked {r : Reg} (hr : r.locked = true) (v : Word) (s : State) :
    writeReg r v s = .next (lockedWrite (fun t => { t with cfg := writeCfg r v t.cfg }) s) := by
  cases r <;> simp_all [writeReg, Reg.locked]

/-- The offsets that the lock covers: those of the configuration registers and of the RAM words. -/
theorem windowLocked_cases {p : Params} {off : Nat} (h4 : off % 4 = 0) (h : windowLocked p off) :
    (∃ r : Reg, r.locked = true ∧ r.offset = off) ∨
    (∃ (l : LaneId) (k : Nat), k < 64 ∧ 0x400 + 0x100 * l.idx + 4 * k = off) ∨
    (∃ (l : LaneId) (i : Nat), i < p.pixCap ∧ 0x10000 + 0x10000 * l.idx + 4 * i = off) := by
  obtain h | ⟨hlo, hhi⟩ | ⟨hlo, hhi⟩ | ⟨hlo, hhi⟩ := h
  · exact .inl (exists_locked_of_mem_configOffsets h)
  · refine .inr (.inl ?_)
    by_cases hl : off < 0x500
    · exact ⟨.l0, (off - 0x400) / 4, by omega, by simp only [LaneId.idx]; omega⟩
    · exact ⟨.l1, (off - 0x500) / 4, by omega, by simp only [LaneId.idx]; omega⟩
  · exact .inr (.inr ⟨.l0, (off - 0x10000) / 4, by omega, by simp only [LaneId.idx]; omega⟩)
  · exact .inr (.inr ⟨.l1, (off - 0x20000) / 4, by omega, by simp only [LaneId.idx]; omega⟩)

/-- Settles O24: whatever a locked offset names, the write of it goes through the lock. -/
theorem lockedWritesAreDropped : Obligations.LockedWritesAreDropped := by
  refine ⟨fun s off v hp hw h4 hlock => ?_, fun s v => ⟨hostWrite_offset .status v s, hostWrite_offset .cmd v s⟩⟩
  obtain ⟨r, hr, rfl⟩ | ⟨l, k, hk, rfl⟩ | ⟨l, i, hi, rfl⟩ := windowLocked_cases h4 hlock
  · rw [hostWrite_offset, writeReg_locked hr, lockedWrite_of_working _ hw]
  · rw [hostWrite_gammaOffset s l hk, lockedWrite_of_working _ hw]
  · rw [hostWrite_pixOffset hp l hi, lockedWrite_of_working _ hw]

/-! ### What a configuration register reads -/

section Fields

variable (r : Reg) (v : Word) (c : Cfg) (l : LaneId) (x : Lane)

@[simp] theorem Cfg.setLane_mode : (c.setLane l x).mode = c.mode := by cases l <;> rfl
@[simp] theorem Cfg.setLane_freq : (c.setLane l x).freq = c.freq := by cases l <;> rfl
@[simp] theorem Cfg.setLane_resetUs : (c.setLane l x).resetUs = c.resetUs := by cases l <;> rfl
@[simp] theorem Cfg.setLane_outBase : (c.setLane l x).outBase = c.outBase := by cases l <;> rfl
@[simp] theorem Cfg.setLane_outCap : (c.setLane l x).outCap = c.outCap := by cases l <;> rfl

theorem Cfg.setLane_lane (l' : LaneId) : (c.setLane l x).lane l' = if l' = l then x else c.lane l' := by
  cases l <;> cases l' <;> rfl

theorem writeCfg_mode : (writeCfg r v c).mode = if r = .ctrl then modeOf v else c.mode := by cases r <;> simp [writeCfg]

theorem writeCfg_freq : (writeCfg r v c).freq = if r = .freq then v else c.freq := by cases r <;> simp [writeCfg]

theorem writeCfg_resetUs_eq : (writeCfg r v c).resetUs = if r = .resetUs then resetUsOf v else c.resetUs := by
  cases r <;> simp [writeCfg]

theorem writeCfg_outBase : (writeCfg r v c).outBase = if r = .outBase then v.extractLsb' 2 30 else c.outBase := by
  cases r <;> simp [writeCfg]

theorem writeCfg_outCap : (writeCfg r v c).outCap = if r = .outCap then v else c.outCap := by cases r <;> simp [writeCfg]

/-- A lane changes only by a write of one of its own three registers (10_state.md section 3.7). -/
theorem writeCfg_lane :
    (writeCfg r v c).lane l =
      if r = .count l then (c.lane l).setCount v else if r = .layout l then (c.lane l).setLayout v
      else if r = .ctl l then (c.lane l).setCtl v else c.lane l := by
  cases r
  case count l' => by_cases h : l = l' <;> simp [writeCfg, Cfg.setLane_lane, h, eq_comm]
  case layout l' => by_cases h : l = l' <;> simp [writeCfg, Cfg.setLane_lane, h, eq_comm]
  case ctl l' => by_cases h : l = l' <;> simp [writeCfg, Cfg.setLane_lane, h, eq_comm]
  all_goals cases l <;> rfl

end Fields

/-- A configuration register reads the value written to it, made legal (43_commands.md R202, R203). -/
theorem readReg_writeCfg_self {r : Reg} (hr : r.locked = true) (v : Word) (s : State) :
    readReg r { s with cfg := writeCfg r v s.cfg } = readBack r.offset v := by
  cases r with
  | ctrl => exact ctrlWord_modeOf s.cfg v
  | freq => rfl
  | resetUs => exact resetUsOf_word v
  | outBase => exact outBase_word v
  | outCap => rfl
  | count l =>
    rw [readReg, writeCfg_lane, if_pos rfl]
    cases l <;> exact low16_eq v
  | layout l =>
    rw [readReg, writeCfg_lane, if_neg nofun, if_pos rfl, layoutWord_setLayout]
    cases l <;> rfl
  | ctl l =>
    rw [readReg, writeCfg_lane, if_neg nofun, if_neg nofun, if_pos rfl, ctlWord_setCtl]
    cases l <;> rfl
  | _ => simp [Reg.locked] at hr

/-- The fields a configuration register reads are written by itself alone. -/
theorem readReg_writeCfg_other {r r' : Reg} (hr' : r'.locked = true) (hne : r ≠ r') (v : Word) (s : State) :
    readReg r' { s with cfg := writeCfg r v s.cfg } = readReg r' s := by
  cases r' with
  | ctrl => simp only [readReg, Cfg.ctrlWord, writeCfg_mode, if_neg hne]
  | freq => simp only [readReg, writeCfg_freq, if_neg hne]
  | resetUs => simp only [readReg, writeCfg_resetUs_eq, if_neg hne]
  | outBase => simp only [readReg, Cfg.outBaseWord, writeCfg_outBase, if_neg hne]
  | outCap => simp only [readReg, writeCfg_outCap, if_neg hne]
  | count l =>
    rw [readReg, writeCfg_lane, if_neg hne]
    split_ifs <;> rfl
  | layout l =>
    rw [readReg, writeCfg_lane, if_neg hne]
    split_ifs <;> rfl
  | ctl l =>
    rw [readReg, writeCfg_lane, if_neg hne]
    split_ifs <;> rfl
  | _ => simp [Reg.locked] at hr'

/-! ### The fields in a register as read -/

theorem ctrlWord_mode (c : Cfg) : c.ctrlWord.getLsbD 0 = true ↔ c.mode = .single := by
  unfold Cfg.ctrlWord
  cases c.mode <;> simp

theorem zero16_append_toNat (x : BitVec 16) : (0#16 ++ x : BitVec (16 + 16)).toNat = x.toNat := by
  rw [toNat_append_eq]
  simp

theorem layoutWord_white (x : Lane) : x.layoutWord.getLsbD 31 = x.white := by
  simp only [Lane.layoutWord, flagBit, BitVec.getLsbD_append, BitVec.getLsbD_ofBool]
  simp

theorem ctlWord_bright (x : Lane) : x.ctlWord.extractLsb' 0 8 = x.bright := by
  refine BitVec.eq_of_getLsbD_eq fun i hi => ?_
  simp only [Lane.ctlWord, BitVec.getLsbD_append, BitVec.getLsbD_extractLsb', Nat.zero_add]
  rw [if_pos (by omega), if_pos (by omega), if_pos (by omega), if_pos hi, decide_eq_true hi, Bool.true_and]

theorem ctlWord_flags (x : Lane) :
    x.ctlWord.getLsbD 8 = x.gammaEn ∧ x.ctlWord.getLsbD 9 = x.inv ∧ x.ctlWord.getLsbD 10 = x.en := by
  simp only [Lane.ctlWord, flagBit, BitVec.getLsbD_append, BitVec.getLsbD_ofBool]
  simp

/-- Settles O25: the offset names a register, which a write in `IDLE` sets and no other write touches. -/
theorem configurationWriteReadsBack : Obligations.ConfigurationWriteReadsBack := by
  refine ⟨fun s off v hi hoff => ?_, fun s => ?_⟩
  · obtain ⟨r, hr, rfl⟩ := exists_locked_of_mem_configOffsets hoff
    refine ⟨writeCfg r v s.cfg, ?_, ?_, fun off' hoff' hne => ?_⟩
    · rw [hostWrite_offset, writeReg_locked hr, lockedWrite_of_idle _ hi]
    · rw [hostRead_offset, readReg_writeCfg_self hr]
    · obtain ⟨r', hr', rfl⟩ := exists_locked_of_mem_configOffsets hoff'
      rw [hostRead_offset, hostRead_offset, readReg_writeCfg_other hr' fun e => hne (e ▸ rfl)]
  · have hread := fun r => congrArg Prod.fst (hostRead_offset r s)
    have hctrl : (hostRead 0x000 4 s).1 = s.cfg.ctrlWord := hread .ctrl
    have hresetUs : (hostRead 0x010 4 s).1 = 0#16 ++ s.cfg.resetUs := hread .resetUs
    have houtBase : (hostRead 0x014 4 s).1 = s.cfg.outBaseWord := hread .outBase
    rw [hctrl, hresetUs, houtBase]
    refine ⟨ctrlWord_mode _, hread .freq, zero16_append_toNat _, outBaseWord_toNat _, hread .outCap, fun l => ?_⟩
    have hcount : (hostRead (0x020 + 0x10 * l.idx) 4 s).1 = 0#16 ++ (s.cfg.lane l).count := hread (.count l)
    have hlayout : (hostRead (0x024 + 0x10 * l.idx) 4 s).1 = (s.cfg.lane l).layoutWord := hread (.layout l)
    have hctl : (hostRead (0x028 + 0x10 * l.idx) 4 s).1 = (s.cfg.lane l).ctlWord := hread (.ctl l)
    have hshift := fun (j : Nat) (hj : j < 4) => layoutWord_shiftField (s.cfg.lane l) hj
    rw [hcount, hlayout, hctl]
    exact ⟨zero16_append_toNat _, hshift 0 (by decide), hshift 1 (by decide), hshift 2 (by decide), hshift 3 (by decide),
      layoutWord_white _, ctlWord_bright _, ctlWord_flags _⟩

end Sys2Proof.Machine
end

section
/-! PROOFS. The encoder engine (43_commands.md sections 3 and 4): its steps by the memory's answer, what stays while a command is in
progress, and what a completed command leaves in the buffer. -/

namespace Sys2Proof.Machine

/-! ### While a command is in progress -/

theorem SourcesKept.pix_eq {s t : State} (h : SourcesKept s t) (l : LaneId) (i : Nat) : t.pix l i = s.pix l i := by
  rw [State.pix, State.pix, h.pixRam, h.draw]

theorem SourcesKept.gamma_eq {s t : State} (h : SourcesKept s t) (l : LaneId) (c : Nat) : t.gamma l c = s.gamma l c := by
  rw [State.gamma, State.gamma, h.gammaRam, h.draw]

/-- Settles O20: what the output words are made of is kept. -/
theorem configurationHeldWhileWorking : Obligations.ConfigurationHeldWhileWorking := by
  intro s t hw hr h
  have hkept := step_sourcesKept h hw hr
  exact ⟨hkept.cfg, hkept.pix_eq, hkept.gamma_eq⟩

/-! ### One step of the engine -/

section EngineMoves

variable {s : State} {a : MemAnswer}

theorem step_of_engine (hm : s.nextMove = .engine a) : step s = .next (engineStep a s.popMove) := by
  rw [step_eq, hm, doMove]

theorem engineStep_of_idle (a : MemAnswer) (hi : s.fsm = .idle) : engineStep a s = s := by rw [engineStep, hi]

theorem engineStep_of_pending (a : MemAnswer) (hp : s.fsm = .pending) :
    engineStep a s = if s.waitRemain = 0 then startHeld s else s := by rw [engineStep, hp]

theorem engineStep_of_word (a : MemAnswer) (hb : s.fsm = .busy) (hc : s.cursor < bufWords s.params s.cfg) :
    engineStep a s = wordStep a s := by
  rw [engineStep, hb]
  exact if_pos hc

theorem engineStep_of_written (a : MemAnswer) (hb : s.fsm = .busy) (hc : bufWords s.params s.cfg ≤ s.cursor) :
    engineStep a s = completeCommand s := by
  rw [engineStep, hb]
  exact if_neg (Nat.not_lt.2 hc)

theorem step_of_word (hm : s.nextMove = .engine a) (hb : s.fsm = .busy) (hc : s.cursor < bufWords s.params s.cfg) :
    step s = .next (wordStep a s.popMove) := by
  rw [step_of_engine hm, engineStep_of_word a (by simpa using hb) (by simpa using hc)]

theorem step_of_written (hm : s.nextMove = .engine a) (hb : s.fsm = .busy) (hc : bufWords s.params s.cfg ≤ s.cursor) :
    step s = .next (completeCommand s.popMove) := by
  rw [step_of_engine hm, engineStep_of_written a (by simpa using hb) (by simpa using hc)]

/-- The cursor's word acknowledged, in terms of the state before the move. -/
theorem wordDone_popMove (s : State) :
    wordDone s.popMove = { s.popMove with
      mem := s.mem.writeWord (s.cfg.outAddr s.cursor).toNat (outWord s s.curOp s.cursor)
      cursor := s.cursor + 1
      inFlight := false } := by
  rw [wordDone, storeWord, popMove_curAddr, popMove_curWord, popMove_mem, popMove_cursor]

/-- The cursor's word refused, in terms of the state before the move: a free word lands there (log entry 10). -/
theorem wordFault_popMove (s : State) :
    wordFault s.popMove = { s.popMove with
      mem := s.mem.writeWord (s.cfg.outAddr s.cursor).toNat (takeWord s.popMove).1
      fsm := .idle
      err := .busFault
      inFlight := false
      freeIx := s.popMove.freeIx + 1 } := by
  rw [wordFault, storeWord, popMove_curAddr, takeWord_mem, popMove_mem]
  rfl

/-- Completion, in terms of the state before the move. -/
theorem completeCommand_popMove (s : State) :
    completeCommand s.popMove = { s.popMove with
      fsm := .idle, done := true, armWaitUs := BitVec.ofNat 32 (waitUs s.params s.cfg) } := by
  have hw : waitUs s.popMove.params s.popMove.cfg = waitUs s.params s.cfg := by rw [popMove_params, popMove_cfg]
  rw [completeCommand, hw]

end EngineMoves

theorem Memory.read_writeWord_byte (m : Memory) (a : Nat) (v : Word) {b : Nat} (hb : b < 4) :
    (m.writeWord a v).read (a + b) = some (v.extractLsb' (8 * b) 8) := by
  rw [Memory.read_writeWord, if_pos (by omega), Nat.add_sub_cancel_left, wordByte]

theorem Memory.read_writeWord_outside (m : Memory) {a : Word} {b : Nat} (v : Word) (h : ¬inWord a b) :
    (m.writeWord a.toNat v).read b = m.read b := by
  rw [Memory.read_writeWord]
  exact if_neg h

/-- Settles O47, answer by answer. -/
theorem wordStepByAnswer : Obligations.WordStepByAnswer := by
  intro s hb hc
  refine ⟨fun hm => ⟨_, (step_of_word hm hb hc).trans (congrArg _ (wordDone_popMove s)), fun b hlt => ?_, fun a ha => ?_⟩,
    fun hm => ⟨_, (step_of_word hm hb hc).trans (congrArg _ (wordFault_popMove s)), fun a ha => ?_⟩, fun hm => ?_⟩
  · exact Memory.read_writeWord_byte _ _ _ hlt
  · exact Memory.read_writeWord_outside _ _ ha
  · exact Memory.read_writeWord_outside _ _ ha
  · exact step_of_word hm hb hc

/-- Settles O48: the engine's step by the operation state; a buffer is never empty, since its padding takes a word. -/
theorem engineStartsAndCompletes : Obligations.EngineStartsAndCompletes := by
  refine ⟨fun s hs hw => ?_, fun s a hm => ⟨fun hi => ?_, fun hp h0 => ?_, fun hp h0 => ?_, fun hb hc => ?_⟩⟩
  · exact bufWords_pos hs.params (capOk_of_cfgOk (hs.accepted hw)).1 hs.resetUs
  · rw [step_of_engine hm, engineStep_of_idle a (by simpa using hi)]
  · rw [step_of_engine hm, engineStep_of_pending a (by simpa using hp), popMove_waitRemain, if_pos h0, startHeld]
  · rw [step_of_engine hm, engineStep_of_pending a (by simpa using hp), popMove_waitRemain, if_neg h0]
  · rw [step_of_written hm hb hc, completeCommand_popMove]

/-! ### The whole buffer -/

/-- `WAIT_US` fits the 32 bits in which it is latched (log entry 18). -/
theorem waitUs_word_toNat {p : Params} (hp : p.legal = true) (c : Cfg) : (BitVec.ofNat 32 (waitUs p c)).toNat = waitUs p c := by
  have hw := waitUs_le (c := c) hp
  have hl := laneWords_le (c := c) hp
  exact toNat_word_of_lt (by omega)

/-- Settles O51: the cursor stands at the end of the buffer, so the words before it are all of them. -/
theorem completionLeavesWholeBuffer : Obligations.CompletionLeavesWholeBuffer := by
  intro s t a hs hbuf hm h hb hc
  obtain rfl := Host.Outcome.next.inj ((step_of_written hm hb hc).symm.trans h)
  rw [completeCommand_popMove]
  refine ⟨rfl, rfl, waitUs_word_toNat hs.params _, fun c hlt => ?_⟩
  · rw [← outAddr_of_capOk (hs.capOk (by simp [hb])) hlt, ← hbuf hb c (hlt.trans_le hc)]
    exact busWord_of_mem_eq (popMove_mem s) _

/-- `t` is where the command running in `s` ends if every write from `s` on is acknowledged: it has completed, its words from the
cursor on are in memory, and nothing else of the bus space has changed (43_commands.md R197, R198, R200). -/
structure CompletedFrom (s t : State) : Prop where
  fsm : t.fsm = .idle
  done : t.done = true
  err : t.err = s.err
  armWaitUs : t.armWaitUs.toNat = waitUs s.params s.cfg
  cfg : t.cfg = s.cfg
  waitRemain : t.waitRemain = s.waitRemain
  words : ∀ c, s.cursor ≤ c → c < bufWords s.params s.cfg → t.busWord (s.cfg.outAddr c).toNat = outWord s s.curOp c
  frame : ∀ a, (∀ c, s.cursor ≤ c → c < bufWords s.params s.cfg → ¬inWord (s.cfg.outAddr c) a) → t.mem.read a = s.mem.read a

/-- With no word left the completion step is the whole of it. -/
theorem CompletedFrom.of_completion {s : State} (hs : Inv s) (hc : bufWords s.params s.cfg ≤ s.cursor) :
    CompletedFrom s (completeCommand s.popMove) where
  fsm := rfl
  done := rfl
  err := popMove_err s
  armWaitUs := by rw [completeCommand_popMove, waitUs_word_toNat hs.params]
  cfg := popMove_cfg s
  waitRemain := popMove_waitRemain s
  words := fun c hlo hhi => absurd hlo (by omega)
  frame := fun a _ => by rw [completeCommand_mem, popMove_mem]

/-- The word at the cursor acknowledged, and the words after it from there. -/
theorem CompletedFrom.of_wordDone {s t : State} (hs : Inv s) (hb : s.fsm = .busy) (hc : s.cursor < bufWords s.params s.cfg)
    (h : CompletedFrom (wordDone s.popMove) t) : CompletedFrom s t := by
  have hkept : SourcesKept s (wordDone s.popMove) := .popMove ⟨rfl, rfl, rfl, rfl, rfl⟩
  obtain ⟨hfsm, hdone, herr, harm, hcfg, hwait, hwords, hframe⟩ := h
  simp only [hkept.outWord_eq] at hwords
  simp only [wordDone_popMove, popMove_err, popMove_params, popMove_cfg, popMove_waitRemain] at herr harm hcfg hwait hwords hframe
  have hcursor : t.busWord (s.cfg.outAddr s.cursor).toNat = outWord s s.curOp s.cursor := by
    have hword : (wordDone s.popMove).busWord (s.cfg.outAddr s.cursor).toNat = outWord s s.curOp s.cursor :=
      busWord_of_writeWord (m := s.mem) (by rw [wordDone_popMove])
    refine (busWord_congr fun b hlo hhi => ?_).trans hword
    rw [wordDone_popMove]
    refine hframe b fun c hlt hlast ⟨hin, hin'⟩ => ?_
    have hd := outAddr_disjoint (hs.capOk (by simp [hb])) hlast hc (Nat.ne_of_gt hlt)
    omega
  refine ⟨hfsm, hdone, herr, harm, hcfg, hwait, fun c hlo hhi => ?_, fun a ha => ?_⟩
  · obtain rfl | hlt := hlo.eq_or_lt
    · exact hcursor
    · exact hwords c hlt hhi
  · exact (hframe a fun c hlt hlast => ha c (Nat.le_of_succ_le hlt) hlast).trans
      (Memory.read_writeWord_outside _ _ (ha _ le_rfl hc))

/-- A step on a fixed move leaves the moves fixed after it. -/
theorem step_sched_cons {s t : State} {m : Move} {ms : List Move} (h : step s = .next t) (hm : s.sched = m :: ms) :
    t.sched = ms := by
  rw [step_sched h, popMove_cons hm]

/-- One acknowledged move a word left and one more complete the command. -/
theorem exists_run_completedFrom {rest : List Move} (n : Nat) {s : State} (hs : Inv s) (hb : s.fsm = .busy)
    (hn : s.cursor + n = bufWords s.params s.cfg) (hsched : s.sched = List.replicate (n + 1) (.engine .ok) ++ rest) :
    ∃ t, core.run (n + 1) s = .next t ∧ t.sched = rest ∧ CompletedFrom s t := by
  induction n generalizing s with
  | zero =>
    have hstep := step_of_written (nextMove_cons hsched) hb (by omega)
    exact ⟨_, core_run_one hstep, step_sched_cons hstep hsched, .of_completion hs (by omega)⟩
  | succ n ih =>
    have hc : s.cursor < bufWords s.params s.cfg := by omega
    have hstep := step_of_ok (nextMove_cons hsched) hb hc
    have hn' : s.cursor + 1 + n = bufWords s.params s.cfg := by omega
    obtain ⟨t, hrun, hrest, hdone⟩ := ih (stepKeepsInvariant _ _ hs hstep) (by simp [hb]) (by simpa using hn')
      (step_sched_cons hstep hsched)
    exact ⟨t, (core_run_succ hstep _).trans hrun, hrest, hdone.of_wordDone hs hb hc⟩

/-- Settles O52, by induction on the words left. -/
theorem acknowledgedCommandCompletes : Obligations.AcknowledgedCommandCompletes := by
  intro s n rest hs hb hn hsched
  obtain ⟨t, hrun, hrest, h⟩ := exists_run_completedFrom n hs hb hn hsched
  refine ⟨t, hrun, h.fsm, h.done, h.err, hrest, h.armWaitUs, h.cfg, h.waitRemain, fun c hlo hhi => ?_, h.frame⟩
  rw [← outAddr_of_capOk (hs.capOk (by simp [hb])) hhi, h.words c hlo hhi]

end Sys2Proof.Machine
end

section
/-! PROOFS. Errors and flags (60_exceptions.md): which command raises which error, what clears a flag, and that no step stops
the machine. -/

namespace Sys2Proof.Machine

/-! ### The error a command raises -/

section Raising

variable {i : Instr} {s t : State} {e : Err}

/-- ENCODE and BLANK start their operation. -/
theorem exec_of_start (hi : i = .encode ∨ i = .blank) (s : State) : ∃ op, exec i s = .next (startCommand op s) := by
  obtain rfl | rfl := hi
  · exact ⟨.encode, exec_encode s⟩
  · exact ⟨.blank, exec_blank s⟩

theorem Raises.ne_none (h : Raises i s e) : e ≠ .none := by
  obtain ⟨rfl, -⟩ | ⟨rfl, -⟩ | ⟨rfl, -⟩ | ⟨rfl, -⟩ := h <;> simp

/-- A command that raises an error does that and nothing else, check by check in the order of R229. -/
theorem Raises.exec_eq (h : Raises i s e) : exec i s = .next (raiseErr e s) := by
  obtain ⟨rfl, op, rfl | rfl⟩ | ⟨rfl, hi, hw⟩ | ⟨rfl, hs, hi, hf⟩ | ⟨rfl, hs, hi, hf, hc⟩ := h
  · rfl
  · rfl
  · obtain hs | rfl := or_assoc.2 hi
    · obtain ⟨op, hx⟩ := exec_of_start hs s
      rw [hx, startCommand_of_working op hw]
    · exact (armedMeaning.2 s).1 hw
  · obtain ⟨op, hx⟩ := exec_of_start hs s
    rw [hx, startCommand_of_illegalFreq op hi hf]
  · obtain ⟨op, hx⟩ := exec_of_start hs s
    rw [hx, startCommand_of_noCapacity op hi hf hc]

theorem Raises.err_eq (h : Raises i s e) (hx : exec i s = .next t) : t.err = e := by
  obtain rfl := Host.Outcome.next.inj (h.exec_eq.symm.trans hx)
  rfl

/-- An accepted ENCODE or BLANK. -/
theorem exec_of_legal (hs : i = .encode ∨ i = .blank) (hi : s.fsm = .idle) (hf : FreqLegal s.cfg)
    (hc : CapacityHolds s.params s.cfg) : ∃ op, exec i s = .next (accept op s) := by
  obtain ⟨op, hx⟩ := exec_of_start hs s
  exact ⟨op, by rw [hx, startCommand_of_legal op hi hf hc]⟩

/-- An ENCODE or BLANK that passes every check keeps `ERR`. -/
theorem err_eq_of_legal (hs : i = .encode ∨ i = .blank) (hi : s.fsm = .idle) (hf : FreqLegal s.cfg)
    (hc : CapacityHolds s.params s.cfg) (hx : exec i s = .next t) : t.err = s.err := by
  obtain ⟨op, he⟩ := exec_of_legal hs hi hf hc
  obtain rfl := Host.Outcome.next.inj (he.symm.trans hx)
  exact accept_err op s

/-- An ARMED in `IDLE` keeps `ERR`. -/
theorem err_eq_of_armed (hi : s.fsm = .idle) (hx : exec .armed s = .next t) : t.err = s.err := by
  obtain rfl := Host.Outcome.next.inj (((armedMeaning.2 s).2 hi).symm.trans hx)
  rfl

theorem err_eq_of_nop (hx : exec .nop s = .next t) : t.err = s.err := by
  obtain rfl := Host.Outcome.next.inj hx
  rfl

/-- The checks of ENCODE and BLANK: one fails, and its error is raised, or all pass. -/
theorem start_raises_or_legal (hs : i = .encode ∨ i = .blank) (s : State) :
    (∃ e, Raises i s e) ∨ (s.fsm = .idle ∧ FreqLegal s.cfg ∧ CapacityHolds s.params s.cfg) := by
  by_cases hi : s.fsm = .idle
  · by_cases hf : FreqLegal s.cfg
    · by_cases hc : CapacityHolds s.params s.cfg
      · exact .inr ⟨hi, hf, hc⟩
      · exact .inl ⟨_, .inr (.inr (.inr ⟨rfl, hs, hi, hf, hc⟩))⟩
    · exact .inl ⟨_, .inr (.inr (.inl ⟨rfl, hs, hi, hf⟩))⟩
  · exact .inl ⟨_, .inr (.inl ⟨rfl, hs.imp_right .inl, hi⟩)⟩

/-- A command raises an error or keeps `ERR`. -/
theorem raises_or_keeps_err (hx : exec i s = .next t) : (∃ e, Raises i s e) ∨ t.err = s.err := by
  have hstart (hs : i = .encode ∨ i = .blank) : (∃ e, Raises i s e) ∨ t.err = s.err :=
    (start_raises_or_legal hs s).imp_right fun ⟨hi, hf, hc⟩ => err_eq_of_legal hs hi hf hc hx
  cases i with
  | nop => exact .inr (err_eq_of_nop hx)
  | encode => exact hstart (.inl rfl)
  | blank => exact hstart (.inr rfl)
  | armed =>
    by_cases hi : s.fsm = .idle
    · exact .inr (err_eq_of_armed hi hx)
    · exact .inl ⟨_, .inr (.inl ⟨rfl, .inr (.inr rfl), hi⟩)⟩
  | reservedLow op => exact .inl ⟨_, .inl ⟨rfl, op, .inl rfl⟩⟩
  | reservedHigh op => exact .inl ⟨_, .inl ⟨rfl, op, .inr rfl⟩⟩

end Raising

/-- Settles O12: a command raises its error alone, or keeps `ERR`. -/
theorem commandErrorsArePrecise : Obligations.CommandErrorsArePrecise := by
  refine fun i s => ⟨fun e h => ⟨h.ne_none, h.exec_eq⟩, fun t hx => ⟨fun hnone => ?_, fun hne => ?_⟩⟩
  · exact (raises_or_keeps_err hx).resolve_left fun ⟨e, he⟩ => hnone e he
  · obtain ⟨e, he⟩ := (raises_or_keeps_err hx).resolve_right hne
    obtain rfl := Host.Outcome.next.inj (he.exec_eq.symm.trans hx)
    rfl

/-! ### The command of a word, by its opcode -/

theorem exec_next (i : Instr) (s : State) : ∃ t, exec i s = .next t := by cases i <;> exact ⟨_, rfl⟩

/-- A word with OP 1 or 2 decodes to ENCODE or BLANK (30_encoding.md R91). -/
theorem decodeWord_start {w : Word} (h : w &&& 0x0000000F#32 ∈ [0x1#32, 0x2#32]) :
    decodeWord w = .encode ∨ decodeWord w = .blank := by
  rw [List.mem_pair] at h
  exact h.imp (encodeMeaning.1 w) (blankMeaning.1 w)

/-- A word with OP 1, 2 or 3 decodes to a command that needs `IDLE`. -/
theorem decodeWord_needsIdle {w : Word} (h : w &&& 0x0000000F#32 ∈ [0x1#32, 0x2#32, 0x3#32]) :
    decodeWord w = .encode ∨ decodeWord w = .blank ∨ decodeWord w = .armed := by
  simp only [List.mem_cons, List.not_mem_nil, or_false] at h
  exact h.imp (encodeMeaning.1 w) (Or.imp (blankMeaning.1 w) (armedMeaning.1 w))

/-- Settles O13: each failing check is a clause of `Raises`, and a command that passes them keeps `ERR`. -/
theorem firstFailingCheckIsRaised : Obligations.FirstFailingCheckIsRaised := by
  intro w s
  obtain ⟨t, hx⟩ := exec_next (decodeWord w) s
  refine ⟨t, (cmdWriteIssuesCommand w s).trans hx, fun h => ?_, fun h hw => ?_, fun h hi hf => ?_, fun h hi hf hc => ?_,
    fun h hi hf hc => ?_, fun h hi => ?_, fun h => ?_⟩
  · exact Raises.err_eq (.inl ⟨rfl, decodeWord_reserved h⟩) hx
  · exact Raises.err_eq (.inr (.inl ⟨rfl, decodeWord_needsIdle h, hw⟩)) hx
  · exact Raises.err_eq (.inr (.inr (.inl ⟨rfl, decodeWord_start h, hi, hf⟩))) hx
  · exact Raises.err_eq (.inr (.inr (.inr ⟨rfl, decodeWord_start h, hi, hf, hc⟩))) hx
  · exact err_eq_of_legal (decodeWord_start h) hi hf hc hx
  · exact err_eq_of_armed hi (armedMeaning.1 w h ▸ hx)
  · exact err_eq_of_nop (nopDoesNothing.1 w h ▸ hx)

/-! ### No step stops the machine -/

/-- The next move after `k` steps is the last of the first `k + 1` moves. -/
theorem nextMove_mem_movesOf {k : Nat} {s t : State} (h : core.run k s = .next t) : t.nextMove ∈ movesOf (k + 1) s := by
  induction k generalizing s with
  | zero =>
    obtain rfl := eq_of_core_run_zero h
    exact List.mem_cons_self
  | succ k ih =>
    obtain ⟨u, hu⟩ := step_next s
    rw [movesOf_succ hu]
    exact List.mem_cons_of_mem _ (ih ((core_run_succ hu k).symm.trans h))

/-- Settles O16: the runs that reach a move of the engine and a tick have that move among their moves. -/
theorem stepAnswersNext : Obligations.StepAnswersNext := by
  refine fun s => ⟨step_next s, ?_, ?_⟩
  · obtain ⟨k, t, a, hr, hm⟩ := exists_run_engine s
    exact ⟨k + 1, a, hm ▸ nextMove_mem_movesOf hr⟩
  · obtain ⟨k, t, hr, hm⟩ := exists_run_tick s
    exact ⟨k + 1, hm ▸ nextMove_mem_movesOf hr⟩

/-! ### What clears a flag -/

section Flags

variable {s t : State}

/-- No flag of `ERR`, `WERR` and `BUSERR` that is set in `s` is clear in `t`. -/
structure ErrorFlagsKept (s t : State) : Prop where
  err : s.err ≠ .none → t.err ≠ .none
  werr : s.werr = true → t.werr = true
  buserr : s.buserr = true → t.buserr = true

/-- The same of those three and `DONE`. -/
structure FlagsKept (s t : State) : Prop extends ErrorFlagsKept s t where
  done : s.done = true → t.done = true

theorem ErrorFlagsKept.of_eq (he : t.err = s.err) (hw : t.werr = s.werr) (hb : t.buserr = s.buserr) : ErrorFlagsKept s t :=
  ⟨he.trans_ne, hw.trans, hb.trans⟩

theorem FlagsKept.of_eq (he : t.err = s.err) (hd : t.done = s.done) (hw : t.werr = s.werr) (hb : t.buserr = s.buserr) :
    FlagsKept s t :=
  ⟨.of_eq he hw hb, hd.trans⟩

theorem ErrorFlagsKept.popMove (h : ErrorFlagsKept s.popMove t) : ErrorFlagsKept s t := by
  obtain ⟨he, hw, hb⟩ := h
  rw [popMove_err] at he
  rw [popMove_werr] at hw
  rw [popMove_buserr] at hb
  exact ⟨he, hw, hb⟩

theorem FlagsKept.popMove (h : FlagsKept s.popMove t) : FlagsKept s t := by
  refine ⟨h.toErrorFlagsKept.popMove, ?_⟩
  rw [← popMove_done]
  exact h.done

/-- A command keeps every flag, but that an accepted ENCODE or BLANK clears `DONE` (43_commands.md R192). -/
theorem exec_flags_cases {i : Instr} (h : exec i s = .next t) :
    FlagsKept s t ∨ ((i = .encode ∨ i = .blank) ∧ t.fsm ≠ .idle ∧ ErrorFlagsKept s t) := by
  obtain rfl | ⟨e, hne, rfl⟩ | ⟨op, rfl, -, -, hop⟩ | ⟨-, -, rfl⟩ := exec_cases h
  · exact .inl (.of_eq rfl rfl rfl rfl)
  · exact .inl ⟨⟨fun _ => hne, id, id⟩, id⟩
  · exact .inr ⟨hop, accept_fsm_ne_idle op s, .of_eq (accept_err op s) (accept_werr op s) (accept_buserr op s)⟩
  · exact .inl (.of_eq rfl rfl rfl rfl)

/-- The host's step keeps every flag unless it writes `STATUS` or has an ENCODE or BLANK accepted. -/
theorem hostStep_flags_cases (h : hostStep s = .next t) :
    FlagsKept s t ∨
    (∃ v, s.host.delay = 0 ∧ s.host.program[s.host.pc]? = some (.wr 4 4 v) ∧
      t = writeStatus v (setHostPc (s.host.pc + 1) s)) ∨
    ∃ v, s.host.delay = 0 ∧ s.host.program[s.host.pc]? = some (.wr 8 4 v) ∧ (decodeWord v = .encode ∨ decodeWord v = .blank) ∧
      t.fsm ≠ .idle ∧ ErrorFlagsKept s t := by
  obtain ⟨v, hd, hp, hx⟩ | hstatus | ⟨c, -, e⟩ | ⟨l, k, v, -, -, -, -, rfl⟩ | ⟨l, i, v, -, -, -, -, rfl⟩ | e | e | ⟨-, e⟩ :=
    hostStep_full h
  · obtain ⟨⟨he, hw, hb⟩, hdone⟩ | ⟨hi, hne, he, hw, hb⟩ := exec_flags_cases hx
    · exact .inl ⟨⟨he, hw, hb⟩, hdone⟩
    · exact .inr (.inr ⟨v, hd, hp, hi, hne, he, hw, hb⟩)
  · exact .inr (.inl hstatus)
  · rw [e]
    exact .inl (.of_eq rfl rfl rfl rfl)
  · exact .inl (.of_eq (by simp) (by simp) (by simp) (by simp))
  · exact .inl (.of_eq (by simp) (by simp) (by simp) (by simp))
  · rw [e]
    exact .inl (.of_eq rfl rfl rfl rfl)
  · rw [e]
    exact .inl ⟨⟨id, id, fun _ => rfl⟩, id⟩
  · rw [e]
    exact .inl ⟨⟨id, fun _ => rfl, id⟩, id⟩

/-- The engine sets flags and clears none. -/
theorem engineStep_flagsKept (a : MemAnswer) (s : State) : FlagsKept s (engineStep a s) := by
  obtain ⟨e, -⟩ | ⟨e, -⟩ | ⟨e, -⟩ | ⟨e, -⟩ | ⟨e, -⟩ | ⟨e, -⟩ := engineStep_cases a s <;> rw [e]
  · exact .of_eq rfl rfl rfl rfl
  · exact .of_eq rfl rfl rfl rfl
  · exact .of_eq rfl rfl rfl rfl
  · exact ⟨⟨fun _ => by simp, id, id⟩, id⟩
  · exact .of_eq rfl rfl rfl rfl
  · exact ⟨⟨id, id, id⟩, fun _ => rfl⟩

/-- A step other than reset keeps every flag unless it is a write of `STATUS` or has an ENCODE or BLANK accepted. -/
theorem step_flags_cases (h : step s = .next t) (hr : s.nextMove ≠ .reset) :
    FlagsKept s t ∨
    (∃ v, hostWrites s 0x004 v ∧ t = writeStatus v (setHostPc (s.popMove.host.pc + 1) s.popMove)) ∨
    ∃ v, hostWrites s 0x008 v ∧ (decodeWord v = .encode ∨ decodeWord v = .blank) ∧ t.fsm ≠ .idle ∧ ErrorFlagsKept s t := by
  obtain ⟨hm, hh⟩ | ⟨a, -, rfl⟩ | ⟨-, rfl⟩ | ⟨hm, -⟩ | ⟨k, -, rfl⟩ | ⟨a, -, rfl⟩ | ⟨a, v, -, rfl⟩ := step_cases h
  · obtain hk | ⟨v, hd, hp, e⟩ | ⟨v, hd, hp, hop, hne, hk⟩ := hostStep_flags_cases hh
    · exact .inl hk.popMove
    · rw [popMove_host] at hd hp
      exact .inr (.inl ⟨v, ⟨hm, hd, hp⟩, e⟩)
    · rw [popMove_host] at hd hp
      exact .inr (.inr ⟨v, ⟨hm, hd, hp⟩, hop, hne, hk.popMove⟩)
  · exact .inl (engineStep_flagsKept a _).popMove
  · exact .inl (.popMove (.of_eq rfl rfl rfl rfl))
  · exact absurd hm hr
  · rw [observeWord_frame]
    exact .inl (.popMove (.of_eq rfl rfl rfl rfl))
  · rw [observeByte_frame]
    exact .inl (.popMove (.of_eq rfl rfl rfl rfl))
  · exact .inl (.popMove (.of_eq rfl rfl rfl rfl))

/-- The step of a host write is the write, on the state in which the move is used up and the host is past the statement. -/
theorem step_of_hostWrites {off : Nat} {v : Word} (h : hostWrites s off v) :
    step s = hostWrite off 4 v (setHostPc (s.popMove.host.pc + 1) s.popMove) := by
  obtain ⟨hm, hd, hp⟩ := h
  rw [step_of_hostStmt hm hd hp, runStmt, popMove_host]

theorem step_of_statusWrite {v : Word} (h : hostWrites s 0x004 v) :
    step s = .next (writeStatus v (setHostPc (s.popMove.host.pc + 1) s.popMove)) :=
  (step_of_hostWrites h).trans (hostWrite_offset .status v _)

theorem step_of_reset (hm : s.nextMove = .reset) : step s = .next (resetBlock s.popMove) := by
  rw [step_eq, hm, doMove]

/-- An ENCODE or BLANK accepted by a step clears `DONE` (43_commands.md R192). -/
theorem done_eq_false_of_accepted {v : Word} (h : hostWrites s 0x008 v) (hop : decodeWord v = .encode ∨ decodeWord v = .blank)
    (hi : s.fsm = .idle) (hf : FreqLegal s.cfg) (hc : CapacityHolds s.params s.cfg) (hs : step s = .next t) : t.done = false := by
  rw [step_of_hostWrites h, cmdWriteIssuesCommand] at hs
  obtain ⟨op, hx⟩ := exec_of_legal hop (s := setHostPc (s.popMove.host.pc + 1) s.popMove) (by simpa using hi)
    (by simpa using hf) (by simpa using hc)
  obtain rfl := Host.Outcome.next.inj (hx.symm.trans hs)
  exact accept_done op _

end Flags

/-- Settles O23: what reset, a `STATUS` write and an accepted command clear, and that every other step keeps the flags. -/
theorem flagsAreClearedOnlyAsStated : Obligations.FlagsAreClearedOnlyAsStated := by
  refine fun s t h => ⟨fun hm => ?_, fun v hv => ?_, fun v hv hop hi hf hc => done_eq_false_of_accepted hv hop hi hf hc h, fun hr => ?_⟩
  · obtain rfl := Host.Outcome.next.inj ((step_of_reset hm).symm.trans h)
    exact ⟨rfl, rfl, rfl, rfl⟩
  · obtain rfl := Host.Outcome.next.inj ((step_of_statusWrite hv).symm.trans h)
    refine ⟨?_, ?_, ?_, ?_⟩ <;> intro hbit <;> simp [hbit]
  · obtain hk | ⟨v, hv, rfl⟩ | ⟨v, hv, hop, hne, hk⟩ := step_flags_cases h hr
    · exact ⟨fun hs ht => absurd ht (hk.err hs), fun hs ht => absurd (hk.done hs) (Bool.eq_false_iff.1 ht),
        fun hs ht => absurd (hk.werr hs) (Bool.eq_false_iff.1 ht), fun hs ht => absurd (hk.buserr hs) (Bool.eq_false_iff.1 ht)⟩
    · refine ⟨fun hs ht => ⟨v, hv, ?_⟩, fun hs ht => .inl ⟨v, hv, ?_⟩, fun hs ht => ⟨v, hv, ?_⟩, fun hs ht => ⟨v, hv, ?_⟩⟩
      · simpa [hs] using ht
      · simpa [hs] using ht
      · simpa [hs] using ht
      · simpa [hs] using ht
    · exact ⟨fun hs ht => absurd ht (hk.err hs), fun _ _ => .inr ⟨v, hv, hop, hne⟩,
        fun hs ht => absurd (hk.werr hs) (Bool.eq_false_iff.1 ht), fun hs ht => absurd (hk.buserr hs) (Bool.eq_false_iff.1 ht)⟩

end Sys2Proof.Machine
end

section
/-! PROOFS. Reset and the timing rules (70_reset_and_hazards.md): the block after a reset, the RAM contents, the wait of a held
command, and the levels on a lane's data line. -/

namespace Sys2Proof.Machine

/-! ### The registers at reset -/

/-- At reset `FREQ` is 0, which is no legal frequency (42_symbol_timer.md R171). -/
theorem reset_freq_illegal : ¬FreqLegal State.reset.cfg := fun h => absurd h.1 (by decide)

/-- The registers that read 0 at reset, in the order of their offsets (10_state.md section 3). -/
def zeroAtReset : List Reg :=
  [.ctrl, .status, .cmd, .freq, .outBase, .outCap, .count .l0, .count .l1, .clkDiv, .resetBits, .laneWords, .bufWords,
    .xferBytes, .waitUs, .waitRemain, .armWaitUs]

theorem reset_statusWord : State.reset.statusWord = 0 := by
  have hcfgOk : State.reset.cfgOkFlag = false :=
    Bool.eq_false_iff.2 fun h => reset_freq_illegal ((cfgOkFlag_iff _).1 h).1
  rw [State.statusWord, hcfgOk]
  rfl

theorem readReg_reset_zero : ∀ r ∈ zeroAtReset, readReg r State.reset = 0 := by
  have hderived := derivedRegisters_of_illegal reset_freq_illegal
  simp only [List.forall_mem_cons] at hderived
  obtain ⟨hclkDiv, hresetBits, hlaneWords, hbufWords, hxferBytes, hwaitUs, -⟩ := hderived
  simp only [zeroAtReset, List.forall_mem_cons]
  exact ⟨rfl, reset_statusWord, rfl, rfl, rfl, rfl, rfl, rfl, hclkDiv, hresetBits, hlaneWords, hbufWords, hxferBytes, hwaitUs,
    rfl, rfl, nofun⟩

/-- A host read of the registers of a list, each at its own offset, all of one value. -/
theorem hostRead_of_mem_offsets {rs : List Reg} {s : State} {v : Word} (h : ∀ r ∈ rs, readReg r s = v) :
    ∀ off ∈ rs.map Reg.offset, hostRead off 4 s = (v, s) := by
  rw [List.forall_mem_map]
  intro r hr
  rw [hostRead_offset, h r hr]

/-- Settles O55: register by register, from what each reads in the reset state. -/
theorem registersAfterReset : Obligations.RegistersAfterReset := by
  have hlayout : ∀ r ∈ [Reg.layout .l0, .layout .l1], readReg r State.reset = 0x00000810#32 :=
    List.forall_mem_cons.2 ⟨rfl, List.forall_mem_singleton.2 rfl⟩
  have hctl : ∀ r ∈ [Reg.ctl .l0, .ctl .l1], readReg r State.reset = 0x000000FF#32 :=
    List.forall_mem_cons.2 ⟨rfl, List.forall_mem_singleton.2 rfl⟩
  exact ⟨hostRead_of_mem_offsets readReg_reset_zero, hostRead_offset .resetUs _, hostRead_of_mem_offsets hlayout,
    hostRead_of_mem_offsets hctl, hostRead_offset .paramPixCap _⟩

/-! ### A reset -/

/-- A reset puts every field at its reset value but those of the parameters, the bus space, the agents outside the block and the
free values (R240, R241). -/
theorem clearBlock_eq (s : State) :
    clearBlock s = { State.reset with
      params := s.params, mem := s.mem, host := s.host, seen := s.seen, sched := s.sched, freeIx := s.freeIx,
      draw := s.draw + 1, curOp := Config.curOpDraw (s.draw + 1) } := rfl

theorem resetBlock_popMove (s : State) :
    resetBlock s.popMove = { State.reset with
      params := s.params, mem := (settleInFlight s.popMove).mem, host := s.host, seen := s.seen, sched := s.popMove.sched,
      freeIx := (settleInFlight s.popMove).freeIx, draw := s.draw + 1, curOp := Config.curOpDraw (s.draw + 1) } := by
  have hframe := settleInFlight_frame s.popMove
  rw [resetBlock]
  generalize settleInFlight s.popMove = u at hframe ⊢
  rw [clearBlock_eq, hframe]
  simp

/-- At a reset the bus space keeps every word but the one in flight, which may land (R242). -/
theorem settleInFlight_popMove_mem (s : State) :
    (settleInFlight s.popMove).mem = s.mem ∨
      (s.inFlight = true ∧
        (settleInFlight s.popMove).mem = s.mem.writeWord (s.cfg.outAddr s.cursor).toNat (outWord s s.curOp s.cursor)) := by
  have h := settleInFlight_mem s.popMove
  rwa [popMove_mem, popMove_inFlight, popMove_curAddr, popMove_curWord] at h

/-- Settles O54: the word in flight lands as a word write, or not at all. -/
theorem resetStep : Obligations.ResetStep := by
  intro s hm
  refine ⟨_, _, (step_of_reset hm).trans (congrArg _ (resetBlock_popMove s)), fun hf => ?_, fun hf => ?_⟩
  · exact (settleInFlight_popMove_mem s).resolve_right fun ⟨h, _⟩ => by simp [hf] at h
  · obtain e | ⟨-, e⟩ := settleInFlight_popMove_mem s
    · exact .inl e
    · rw [e]
      exact .inr ⟨fun b hb => Memory.read_writeWord_byte _ _ _ hb, fun a ha => Memory.read_writeWord_outside _ _ ha⟩

/-! ### The RAM contents -/

section Rams

variable {s t u : State}

/-- Every RAM entry reads in `t` as in `s`. -/
structure RamsKept (s t : State) : Prop where
  pix : ∀ l i, t.pix l i = s.pix l i
  gamma : ∀ l c, t.gamma l c = s.gamma l c

theorem RamsKept.trans (h : RamsKept s t) (h' : RamsKept t u) : RamsKept s u :=
  ⟨fun l i => (h'.pix l i).trans (h.pix l i), fun l c => (h'.gamma l c).trans (h.gamma l c)⟩

theorem RamsKept.of_eq (hd : t.draw = s.draw) (hp : t.pixRam = s.pixRam) (hg : t.gammaRam = s.gammaRam) : RamsKept s t :=
  ⟨fun l i => by rw [State.pix, State.pix, hd, hp], fun l c => by rw [State.gamma, State.gamma, hd, hg]⟩

theorem SourcesKept.ramsKept (h : SourcesKept s t) : RamsKept s t := ⟨h.pix_eq, h.gamma_eq⟩

theorem ramsKept_popMove (s : State) : RamsKept s s.popMove :=
  .of_eq (by simp) (pixRam_congr (by simp) (by simp)) (gammaRam_congr (by simp) (by simp))

theorem RamsKept.setPix (h : RamsKept s t) (l : LaneId) (i : Nat) (v : Word) : RamsKept (s.setPix l i v) (t.setPix l i v) :=
  ⟨fun l' i' => by rw [pix_setPix, pix_setPix, h.pix], fun l' c => by rw [gamma_setPix, gamma_setPix, h.gamma]⟩

theorem RamsKept.setGammaWord (h : RamsKept s t) (l : LaneId) (k : Nat) (v : Word) :
    RamsKept (s.setGammaWord l k v) (t.setGammaWord l k v) :=
  ⟨fun l' i => by rw [pix_setGammaWord, pix_setGammaWord, h.pix],
    fun l' c => by rw [gamma_setGammaWord, gamma_setGammaWord, h.gamma]⟩

/-- The host's step changes the RAM contents only by a write, in `IDLE`, of one gamma word or one pixel word. -/
theorem hostStep_ram_cases (h : hostStep s = .next t) :
    RamsKept s t ∨
    (∃ l k v, s.fsm = .idle ∧ k < 64 ∧ s.host.delay = 0 ∧ s.host.program[s.host.pc]? = some (.wr (gammaBase l + 4 * k) 4 v) ∧
      RamsKept (s.setGammaWord l k v) t) ∨
    ∃ l i v, s.fsm = .idle ∧ i < s.params.pixCap ∧ s.host.delay = 0 ∧
      s.host.program[s.host.pc]? = some (.wr (pixBase l + 4 * i) 4 v) ∧ RamsKept (s.setPix l i v) t := by
  have hhost (a : HostAgent) : RamsKept s { s with host := a } := .of_eq rfl rfl rfl
  obtain ⟨v, -, -, hx⟩ | ⟨v, -, -, rfl⟩ | ⟨c, -, e⟩ | ⟨l, k, v, hi, hk, hd, hp, rfl⟩ | ⟨l, i, v, hi, hcap, hd, hp, rfl⟩ | e | e |
    ⟨-, e⟩ := hostStep_full h
  · obtain ⟨-, -, hpix, hgamma, -⟩ := commandFrame _ _ _ hx
    exact .inl ((hhost _).trans ⟨hpix, hgamma⟩)
  · exact .inl (.of_eq (by simp) (pixRam_congr (by simp) (by simp)) (gammaRam_congr (by simp) (by simp)))
  · rw [e]
    exact .inl (.of_eq rfl rfl rfl)
  · exact .inr (.inl ⟨l, k, v, hi, hk, hd, hp, (hhost _).setGammaWord l k v⟩)
  · exact .inr (.inr ⟨l, i, v, hi, hcap, hd, hp, (hhost _).setPix l i v⟩)
  all_goals
    rw [e]
    exact .inl (.of_eq rfl rfl rfl)

/-- A step other than reset changes the RAM contents only by such a write (R241, 10_state.md R51, R52). -/
theorem step_ram_cases (h : step s = .next t) (hr : s.nextMove ≠ .reset) :
    RamsKept s t ∨
    (∃ l k v, s.fsm = .idle ∧ k < 64 ∧ hostWrites s (gammaBase l + 4 * k) v ∧ RamsKept (s.setGammaWord l k v) t) ∨
    ∃ l i v, s.fsm = .idle ∧ i < s.params.pixCap ∧ hostWrites s (pixBase l + 4 * i) v ∧ RamsKept (s.setPix l i v) t := by
  have hpop := ramsKept_popMove s
  obtain ⟨hm, hh⟩ | ⟨a, -, rfl⟩ | ⟨-, rfl⟩ | ⟨hm, -⟩ | ⟨k, -, rfl⟩ | ⟨a, -, rfl⟩ | ⟨a, v, -, rfl⟩ := step_cases h
  · have hc := hostStep_ram_cases hh
    rw [popMove_fsm, popMove_host, popMove_params] at hc
    obtain hk | ⟨l, k, v, hi, hlt, hd, hp, hk⟩ | ⟨l, i, v, hi, hlt, hd, hp, hk⟩ := hc
    · exact .inl (hpop.trans hk)
    · exact .inr (.inl ⟨l, k, v, hi, hlt, ⟨hm, hd, hp⟩, (hpop.setGammaWord l k v).trans hk⟩)
    · exact .inr (.inr ⟨l, i, v, hi, hlt, ⟨hm, hd, hp⟩, (hpop.setPix l i v).trans hk⟩)
  · exact .inl (hpop.trans (engineStep_sourcesKept a _).ramsKept)
  · exact .inl (hpop.trans (.of_eq rfl rfl rfl))
  · exact absurd hm hr
  · rw [observeWord_frame]
    exact .inl (hpop.trans (.of_eq rfl rfl rfl))
  · rw [observeByte_frame]
    exact .inl (hpop.trans (.of_eq rfl rfl rfl))
  · exact .inl (hpop.trans (.of_eq rfl rfl rfl))

end Rams

/-- Settles O21: an entry that changed is one of those the write of the one word sets. -/
theorem ramEntriesKeepTheirValue : Obligations.RamEntriesKeepTheirValue := by
  intro s t h hr
  obtain hk | ⟨l, k, v, hi, hlt, hw, hk⟩ | ⟨l, i, v, hi, hlt, hw, hk⟩ := step_ram_cases h hr
  · exact ⟨fun l i hne => absurd (hk.pix l i) hne, fun l c hne => absurd (hk.gamma l c) hne⟩
  · refine ⟨fun l' i' hne => absurd ((hk.pix l' i').trans (pix_setGammaWord ..)) hne, fun l' c hne => ?_⟩
    rw [hk.gamma, gamma_setGammaWord] at hne ⊢
    obtain ⟨rfl, rfl⟩ : l' = l ∧ c / 4 = k := by
      by_contra hn
      exact hne (if_neg hn)
    exact ⟨hi, by omega, v, hw, if_pos ⟨rfl, rfl⟩⟩
  · refine ⟨fun l' i' hne => ?_, fun l' c hne => absurd ((hk.gamma l' c).trans (gamma_setPix ..)) hne⟩
    rw [hk.pix, pix_setPix] at hne ⊢
    obtain ⟨rfl, rfl⟩ : l' = l ∧ i' = i := by
      by_contra hn
      exact hne (if_neg hn)
    rw [if_pos ⟨rfl, rfl⟩]
    exact ⟨hi, hlt, hw⟩

/-! ### The wait of a held command -/

/-- While a command is in progress only ticks lower the wait timer, each by one at most, unless the block is reset. -/
theorem step_waitRemain_le_add_tick {s t : State} (h : step s = .next t) (hw : s.fsm ≠ .idle) (hr : s.nextMove ≠ .reset) :
    s.waitRemain.toNat ≤ t.waitRemain.toNat + if s.nextMove = .tick then 1 else 0 := by
  split
  · next hm =>
    obtain rfl := Host.Outcome.next.inj ((step_of_tick hm).symm.trans h)
    rw [usTick_waitRemain_toNat, popMove_waitRemain]
    omega
  · next hm =>
    obtain e | ⟨hreset, -⟩ | ⟨-, -, -, hi, -⟩ := step_waitRemain_cases h hm
    · rw [e, Nat.add_zero]
    · exact absurd hreset hr
    · exact absurd hi hw

/-- Settles O53, by induction on the steps of the run: the step that starts the command finds the timer at 0. -/
theorem heldCommandWaitsOutTheTimer : Obligations.HeldCommandWaitsOutTheTimer := by
  intro s t k
  induction k generalizing s with
  | zero =>
    intro hp hrun _ ht
    exact absurd (eq_of_core_run_zero hrun ▸ hp) ht
  | succ k ih =>
    intro hp hrun hreset ht
    obtain ⟨u, hu⟩ := step_next s
    rw [core_run_succ hu] at hrun
    rw [movesOf_succ hu, List.mem_cons, not_or] at hreset
    obtain ⟨hr, hreset⟩ := hreset
    obtain ⟨-, h0, -⟩ | ⟨hm, -⟩ | ⟨hp', -⟩ := step_from_pending hu hp
    · rw [h0]
      exact Nat.zero_le _
    · exact absurd hm.symm hr
    · have hstep := step_waitRemain_le_add_tick hu (by simp [hp]) (Ne.symm hr)
      have hrest := ih u hp' hrun hreset ht
      simp only [movesOf_succ hu, List.count_cons, beq_iff_eq]
      omega

/-! ### The levels on the data line -/

/-- Concatenated pieces of a sequence, each of length `m`, are the sequence. -/
theorem flatMap_range_map {α : Type} (f : Nat → α) (m n : Nat) :
    ((List.range n).flatMap fun w => (List.range m).map fun k => f (m * w + k)) = (List.range (m * n)).map f := by
  induction n with
  | zero => simp
  | succ n ih => simp [List.range_succ, Nat.mul_succ, List.range_add, ih, Function.comp_def]

/-- The slots of a stream and those beyond its end, which are low (41_symbol_packing.md R147). -/
theorem map_slotAt_range (str : List Bool) (idle : Nat) :
    (List.range (str.length + idle)).map (slotAt str) = str ++ List.replicate idle false := by
  rw [List.range_add, List.map_append]
  congr 1
  · exact List.ext_getElem (by simp) fun i _ hi => by simp [slotAt, hi]
  · simp [slotAt, List.eq_replicate_iff]

/-- Output word `NL·w + l` is word `w` of lane `l` (41_symbol_packing.md R159). -/
theorem Cfg.laneOf_interleave {c : Cfg} {l : LaneId} (h : l.idx < c.nl) (w : Nat) :
    c.laneOf (c.nl * w + l.idx) = l ∧ (c.nl * w + l.idx) / c.nl = w := by
  refine ⟨?_, by rw [Nat.mul_add_div (by omega), Nat.div_eq_of_lt h, Nat.add_zero]⟩
  rw [Cfg.laneOf, Nat.mul_add_mod, Nat.mod_eq_of_lt h]
  cases l <;> rfl

section LaneSlots

variable {s : State} {l : LaneId}

/-- The serializer shifts out a lane's word slot by slot, each complemented with `INV` (R147, R149, R254). -/
theorem wordSlots_outWord (h : l.idx < s.cfg.nl) (op : CurOp) (w : Nat) :
    wordSlots (outWord s op (s.cfg.nl * w + l.idx)) =
      (List.range 32).map fun k => xor (s.cfg.lane l).inv (slotAt (slotStream s op l) (32 * w + k)) := by
  obtain ⟨hlane, hword⟩ := s.cfg.laneOf_interleave h w
  refine List.map_congr_left fun k hk => ?_
  rw [List.mem_range] at hk
  have hslot : 31 - (31 - k) = k := by omega
  rw [outWord_getLsbD op hlane hword (by omega), laneWord_getLsbD, hslot, decide_eq_true (by omega), Bool.true_and]

/-- The slots a lane's sub-channel shifts out of `n` words of its own (R255). -/
theorem serialSlots_outWord (h : l.idx < s.cfg.nl) (op : CurOp) (n : Nat) :
    serialSlots s.cfg.nl n l (outWord s op) =
      ((List.range (32 * n)).map (slotAt (slotStream s op l))).map (xor (s.cfg.lane l).inv) := by
  simp only [serialSlots, wordSlots_outWord h]
  rw [flatMap_range_map fun k => xor (s.cfg.lane l).inv (slotAt (slotStream s op l) k), List.map_map]
  rfl

end LaneSlots

/-- Settles O57: the inversions cancel, and the words of the lane hold the stream and the reset period. -/
theorem lineCarriesTheStream : Obligations.LineCarriesTheStream := by
  intro s op l polarity board hf hl heven
  obtain ⟨-, -, hroom⟩ := laneHoldsStreamAndResetPeriod s op l hf
  obtain ⟨idle, hidle⟩ := Nat.exists_eq_add_of_le (Nat.le_of_add_right_le hroom)
  refine ⟨idle, ?_, hidle.symm, by omega⟩
  rw [serialSlots_outWord hl, lineLevels_map_xor heven, hidle, map_slotAt_range]

end Sys2Proof.Machine
end
